-- ==== Sys2Proof/Word.lean ====
section
/-! DEFINITION. The plainest words of the block (spec 00 R8): bytes, disk identities, time stamps. -/

namespace Sys2Proof

/-- 8 bits, value 0 to 255, bit 7 the most significant (00 R8). -/
abbrev Byte := BitVec 8

/-- The opaque name of one image instance (10 R31); natural numbers, never reused. -/
abbrev DiskId := Nat

/-- A time stamp, or a duration, in microseconds (00 R5, R7). -/
abbrev Time := Nat

end Sys2Proof
end

