-- ==== Sys2Proof/Config.lean ====
section
/-! DEFINITION. The block's fixed numbers, its run parameters, and its free values (spec 00 R5, R6; 93 part 1). -/

namespace Sys2Proof

/-- Which data reply the block sends (00 R6; 41 R151, R152). -/
inductive Variant where
  | A  -- every data reply length-prefixed
  | B  -- data replies prefixed with the complete code
  deriving DecidableEq, Repr

/-- The constants of one run that the spec leaves OPEN or makes a parameter (00 R5; 10 R34). No rule writes them. -/
structure Params where
  variant : Variant
  tIdle : Time
  tCompleteMin : Time
  statusEdMask : Byte
  statusActiveMask : Byte
  statusWpMask : Byte
  statusActive : Bool
  statusByte1 : Byte
  statusReserved : Byte
  len255Degenerate : Bool
  deriving DecidableEq, Repr

/-- The defaults of 00 R5, as far as it gives any. DESIGN CHOICE (unsafe, log 1, 2): VARIANT = A and
T_COMPLETE_MIN = 500 are what the vectors of 95 use; 00 R5 gives neither. -/
def Params.standard : Params where
  variant := .A
  tIdle := 1000000
  tCompleteMin := 500
  statusEdMask := 0x80
  statusActiveMask := 0x10
  statusWpMask := 0x08
  statusActive := true
  statusByte1 := 0x00
  statusReserved := 0x00
  len255Degenerate := false

namespace Config

/-- `CK_SEED` (00 R5; 10 R29). -/
def ckSeed : BitVec 16 := 0
/-- `CHUNK`, the bytes one read command returns (00 R5). -/
def chunk : Nat := 32
/-- `WIRE_SECTOR`, the only sector length the wire commands move (00 R5). -/
def wireSector : Nat := 128
/-- `BOOT_SECTORS` (00 R5). -/
def bootSectors : Nat := 3
/-- `BOOT_SIZE` (00 R5). -/
def bootSize : Nat := 128
/-- `HEADER_LEN` (00 R5). -/
def headerLen : Nat := 16
/-- `EMPTY_SECTORS` (00 R5; 10 R38). -/
def emptySectors : Nat := 720
/-- `VTOC_SECTOR` (00 R5). -/
def vtocSector : Nat := 360
/-- `DIR_START` (00 R5). -/
def dirStart : Nat := 361
/-- `DIR_SECTORS` (00 R5). -/
def dirSectors : Nat := 8
/-- `VTOC2_SECTOR` (00 R5). -/
def vtoc2Sector : Nat := 1024
/-- `VTOC2_MIN_SECTORS` (00 R5). -/
def vtoc2MinSectors : Nat := 1024
/-- `DOS2_MIN_SECTORS` (00 R5; 44 R241). -/
def dos2MinSectors : Nat := 369
/-- `STATUS_TIMEOUT` (00 R5; 30 R100). -/
def statusTimeout : Byte := 5

/-! Free values: nothing is known of them, and each takes the draw counter of the state (log 5). -/

/-- What `MemRead` answers past the sector's end, where 20 R62 states no result (log 17). -/
opaque readPastSector : Nat → Option (List Byte)
/-- `Len(d, 0)`, which 20 R61 does not state (log 17). -/
opaque lenOfSectorZero : Nat → Nat
/-- `FE.N` after a degenerate length byte: 41 R142 says it "may be written" (log 16). -/
opaque degenerateN : Nat → Byte
/-- `FE.remaining` after a degenerate length byte: 41 R142 says it "may be written" (log 16). -/
opaque degenerateRemaining : Nat → BitVec 9
/-- Whether a degenerate length byte clears `FE.buf`: 41 R142 says it "may be written" (log 16). -/
opaque degenerateClears : Nat → Bool

end Config
end Sys2Proof
end

