-- ==== Sys2Proof/Syntax.lean ====
section
/-! DEFINITION. What the block's operations are made of, and Instr: one constructor per row of spec/opcode_table.json. -/

namespace Sys2Proof

/-- The four reply codes (30 R92). -/
inductive ReplyCode where
  | A  -- acknowledge, 0x41
  | C  -- complete, 0x43
  | E  -- error, 0x45
  | N  -- negative, 0x4E
  deriving DecidableEq, Repr

/-- `img.sectorSize`, value 128 or 256 (10 R37). -/
inductive SectorSize where
  | s128
  | s256
  deriving DecidableEq, Repr

/-- Bytes by linear address, in one canonical form: addresses strictly rising, no listed byte 0x00. An address not
listed reads 0x00, the content of a created-empty image (10 R38; log 9). -/
abbrev Memory := List Host.Cell

/-- One disk image (10 R36, R37). `count` is `NumSectors`; sector `n`'s bytes stand in `mem` at the place 20 R73
gives them in the file, less the 16 header bytes. -/
structure Image where
  count : Nat
  sectorSize : SectorSize
  lock : Bool
  mem : Memory
  deriving DecidableEq, Repr

/-- The 16 bytes of a directory entry as fields (30 R111). -/
structure DirRecord where
  flags : Byte
  length : BitVec 16
  start : BitVec 16
  filename : List Byte
  extension : List Byte
  deriving DecidableEq, Repr

/-- A decoded directory entry: its positional index, the file number, and its record (44 R248). -/
structure DirEntry where
  index : Nat
  record : DirRecord
  deriving DecidableEq, Repr

/-- The three kinds of directory entry (44 R249). -/
inductive Kind where
  | live
  | freeSlot
  | other
  deriving DecidableEq, Repr

/-- The answer of `SectorIsFree` (44 R245). -/
inductive Freeness where
  | free
  | used
  | notCovered
  deriving DecidableEq, Repr

/-- The chain tail of a sector (30 R116). -/
structure Tail where
  fileNo : BitVec 6
  next : BitVec 10
  dataLen : Byte
  deriving DecidableEq, Repr

/-- Bytes 0 to 99 of sector 360 as fields (30 R113); `gap1` is bytes 1, 2 and `gap2` bytes 5 to 9, not described. -/
structure Vtoc where
  version : Byte
  gap1 : List Byte
  free : BitVec 16
  gap2 : List Byte
  bitmap : List Byte
  deriving DecidableEq, Repr

/-- Bytes 0 to 123 of sector 1024 as fields (30 R115); `gap` is bytes 0 to 83, not described. -/
structure Vtoc2 where
  gap : List Byte
  bitmap : List Byte
  free : BitVec 16
  deriving DecidableEq, Repr

/-- The sub-reasons of `CorruptImage` (43 R215). -/
inductive Corrupt where
  | tooShort
  | badMagic
  | sizeExceedsData
  | zeroSectorSize
  deriving DecidableEq, Repr

/-- Every error outcome of 60 R301 that this block raises, with what it records. -/
inductive Reason where
  | checksumMismatch
  | shortFrame
  | unknownCommand (cmd : Byte)
  | invalidDrive (sel : Byte)
  | driveEmpty (drive : Nat)
  | invalidSector (n : Nat)
  | sectorNot128 (n : Nat)
  | invalidOffset (off : Byte)
  | diskLocked
  | badWriteLength (len : Nat)
  | invalidSectorNumber (n : Nat)
  | badSectorLength (n len : Nat)
  | corruptImage (why : Corrupt)
  | unsupportedSectorSize (size : Nat)
  | imageTooLarge (paragraphs : Nat)
  | notDos2
  | noVtoc2
  | badEntryIndex
  | fileNumberMismatch (sector tag : Nat)
  | chainLoop (sector : Nat)
  | badDataLength (sector len : Nat)
  /-- The refusal of 45 R288, to which the spec gives no name. -/
  | mountRefused (d : DiskId) (slot : Nat)
  deriving DecidableEq, Repr

/-- What the dispatcher decodes a payload to (42 R171). -/
inductive Command where
  | cmdS (sel : Byte)
  | cmdRChunk (sel : Byte) (sec : BitVec 16) (off : Byte)
  | cmdRProbe (sel : Byte) (sec : BitVec 16)
  | cmdW (sel : Byte) (sec : BitVec 16)
  | cmdP (sel : Byte) (sec : BitVec 16)
  | other (cmd : Byte)
  | emptyOrShort (payload : List Byte)
  deriving DecidableEq, Repr

/-- One constructor per row of spec/opcode_table.json, in its order. `now` is the time of the event (10 R46); `d` a
disk identity; `n` a sector number. -/
inductive Instr where
  -- frames
  | frameIn (payload : List Byte) (cs : Byte) (now : Time)
  | writeDataFrame (data : List Byte) (cs : Byte) (now : Time)
  | replyDataA (p : List Byte)
  | replyDataB (p : List Byte)
  -- commands
  | cmdS (sel : Byte)
  | cmdRChunk (sel : Byte) (sec : BitVec 16) (off : Byte)
  | cmdRProbe (sel : Byte) (sec : BitVec 16)
  | cmdW (sel : Byte) (sec : BitVec 16)
  | cmdP (sel : Byte) (sec : BitVec 16)
  | writeData (data : List Byte) (now : Time)
  | other (cmd : Byte)
  | emptyOrShort (payload : List Byte)
  -- reply codes
  | codeA
  | codeC
  | codeE
  | codeN
  -- byte layouts
  | imageHeader (paragraphs sectorSize : BitVec 16)
  | statusPayload (flags byte1 reserved : Byte)
  | dirEntryStruct (r : DirRecord)
  | vtocStruct (v : Vtoc)
  | vtoc2Struct (v : Vtoc2)
  | chainTail (t : Tail)
  -- engine operations
  | rxByte (b : Byte) (now : Time)
  | feReset
  | sendCode (c : ReplyCode)
  | sendPayloadA (p : List Byte)
  | sendPayloadB (p : List Byte)
  | dispatch (p : List Byte) (now : Time)
  | decodeCommand (p : List Byte) (now : Time)
  | resolveDrive (sel : Byte)
  | replyError (r : Reason)
  | fireDeferred (now : Time)
  -- store operations
  | sector (d : DiskId) (n : Nat)
  | writeSector (d : DiskId) (n : Nat) (data : List Byte)
  | imageSize (d : DiskId)
  | numSectors (d : DiskId)
  | decodeImage (file : List Byte)
  | encodeImage (img : Image)
  | createEmpty
  | envSector (d : DiskId) (n : Nat)
  | envWriteSector (d : DiskId) (n : Nat) (data : List Byte)
  -- environment operations
  | openTransport
  | closeTransport
  | newImage
  | loadImage (file : List Byte)
  | saveImage (d : DiskId)
  | destroyImage (d : DiskId)
  | setLock (d : DiskId) (v : Bool)
  | mount (d : DiskId) (slot : Nat)
  | unmount (d : DiskId)
  -- functions
  | checksum (bytes : List Byte)
  | memRead (d : DiskId) (n off len : Nat)
  | memWrite (d : DiskId) (n : Nat) (data : List Byte)
  | len (d : DiskId) (n : Nat)
  | isDos2 (d : DiskId)
  | vtocVersion (d : DiskId)
  | vtocFreeCount (d : DiskId)
  | hasVtoc2 (d : DiskId)
  | vtoc2FreeCount (d : DiskId)
  | sectorIsFree (d : DiskId) (n : Nat)
  | freeSectorList (d : DiskId)
  | bitmapFreeCount (d : DiskId)
  | dirEntry (d : DiskId) (k : Nat)
  | entryKind (e : DirEntry)
  | directory (d : DiskId)
  | entryName (e : DirEntry)
  | tail (d : DiskId) (n : Nat)
  | fileContents (d : DiskId) (start fileNo : Nat)
  deriving DecidableEq, Repr

end Sys2Proof
end

