-- ==== Sys2Proof/Machine/Memory.lean ====
section
/-! DEFINITION. The byte memory of one image: read, block write, the canonical form (log 9). -/

namespace Sys2Proof

/-- The byte at address `a`; an unlisted address reads 0x00 (10 R38; log 9). -/
def Memory.read : Memory → Nat → Byte
  | [], _ => 0
  | (k, v) :: rest, a => if k = a then v else Memory.read rest a

/-- Canonical from address `lo` up: strictly rising addresses, none below `lo`, no listed byte zero. -/
def Memory.wfFrom : Nat → Memory → Bool
  | _, [] => true
  | lo, (k, v) :: rest => decide (lo ≤ k) && v != 0 && Memory.wfFrom (k + 1) rest

/-- The canonical form of a memory. -/
def Memory.wf (m : Memory) : Bool := Memory.wfFrom 0 m

/-- The cells that `data` takes from address `a` up: its nonzero bytes. -/
def Memory.cells : Nat → List Byte → Memory
  | _, [] => []
  | a, b :: rest => if b = 0 then Memory.cells (a + 1) rest else (a, b) :: Memory.cells (a + 1) rest

/-- `data` put at address `a`, at once, and no other address touched (20 R63). -/
def Memory.write (m : Memory) (a : Nat) (data : List Byte) : Memory :=
  m.filter (fun c => decide (c.1 < a)) ++ Memory.cells a data ++
    m.filter (fun c => decide (a + data.length ≤ c.1))

/-- Every listed address lies below `size`. -/
def Memory.below (m : Memory) (size : Nat) : Bool := m.all fun c => decide (c.1 < size)

end Sys2Proof
end

