-- ==== Sys2Proof/Machine/Operands.lean ====
section
/-! DEFINITION. Operand assembly: byte order, command codes, selectors, offsets, sector sizes (spec 20, 30). -/

namespace Sys2Proof

/-- `le16(lo, hi)`: the byte at the lower offset is the low 8 bits (00 R8; 20 R65). -/
def le16 (lo hi : Byte) : BitVec 16 := hi ++ lo

/-- The byte at the lower offset of a 16-bit field (20 R65). -/
def lo8 (v : BitVec 16) : Byte := v.setWidth 8

/-- The byte at the higher offset of a 16-bit field (20 R65). -/
def hi8 (v : BitVec 16) : Byte := (v >>> 8).setWidth 8

/-- The byte of a reply code (30 R92). -/
def ReplyCode.byte : ReplyCode → Byte
  | .A => 0x41
  | .C => 0x43
  | .E => 0x45
  | .N => 0x4E

/-- The reply code of a byte, if it is one (30 R92). -/
def replyCodeOf (b : Byte) : Option ReplyCode :=
  if b = 0x41 then some .A
  else if b = 0x43 then some .C
  else if b = 0x45 then some .E
  else if b = 0x4E then some .N
  else none

/-- Payload byte 0 names one of the four commands; the match is on all 8 bits (30 R102). -/
def isCommandCode (cmd : Byte) : Bool :=
  cmd == 0x53 || cmd == 0x52 || cmd == 0x57 || cmd == 0x50

/-- The payload bytes a command reads: S 2, R 5, W and P 4 (30 R97; 42 R171). -/
def commandNeed (cmd : Byte) : Nat :=
  if cmd = 0x53 then 2 else if cmd = 0x52 then 5 else 4

/-- A payload without a command code, or shorter than its command reads (30 R97). -/
def isEmptyOrShort : List Byte → Bool
  | [] => true
  | cmd :: args => isCommandCode cmd && decide (args.length + 1 < commandNeed cmd)

/-- `drive = sel - 0x31` without wrap, when it lies in 0..7 (30 R98). -/
def driveOf (sel : Byte) : Option Nat :=
  if 0x31 ≤ sel.toNat ∧ sel.toNat ≤ 0x38 then some (sel.toNat - 0x31) else none

/-- The probe sentinel, which is not an offset (30 R98; 42 R177). -/
def probeOffset : Byte := 0xFF

/-- The last offset at which a 32-byte chunk lies inside a 128-byte sector (20 R68; 42 R178). -/
def lastChunkOffset : Nat := Config.wireSector - Config.chunk

/-- `img.sectorSize` in bytes (10 R37). -/
def SectorSize.toNat : SectorSize → Nat
  | .s128 => 128
  | .s256 => 256

/-- The sector size a header field names, if the block has it (43 R217). -/
def sectorSizeOf (size : Nat) : Option SectorSize :=
  if size = 128 then some .s128 else if size = 256 then some .s256 else none

end Sys2Proof
end

