-- ==== Sys2Proof/Machine/Image.lean ====
section
/-! DEFINITION. The sector space of one image: lengths, linear addressing, sector read and write, the persisted file
(spec 20 R60 to R73; 43). -/

namespace Sys2Proof

/-- `Len(d, n)` for `n >= 1`: the 128/256-byte sector mux (20 R61). -/
def Image.len (img : Image) (n : Nat) : Nat :=
  if n ≤ Config.bootSectors then Config.bootSize else img.sectorSize.toNat

/-- Where sector `n` begins, counted from the end of the file header (20 R73). -/
def Image.base (img : Image) (n : Nat) : Nat :=
  if n ≤ Config.bootSectors then Config.bootSize * (n - 1)
  else Config.bootSectors * Config.bootSize + img.sectorSize.toNat * (n - (Config.bootSectors + 1))

/-- `Size(d)`, the sum of all sector lengths (43 R213). -/
def Image.size (img : Image) : Nat :=
  Config.bootSize * min img.count Config.bootSectors +
    img.sectorSize.toNat * (img.count - Config.bootSectors)

/-- Sector `n` exists: `1 <= n <= NumSectors` (20 R60, R62). -/
def Image.has (img : Image) (n : Nat) : Bool := decide (1 ≤ n) && decide (n ≤ img.count)

/-- Byte `off` of sector `n`. -/
def Image.byte (img : Image) (n off : Nat) : Byte := Memory.read img.mem (img.base n + off)

/-- Bytes `off` to `off + len - 1` of sector `n` (20 R62). -/
def Image.slice (img : Image) (n off len : Nat) : List Byte :=
  (List.range len).map fun k => img.byte n (off + k)

/-- The whole of sector `n`. -/
def Image.sector (img : Image) (n : Nat) : List Byte := img.slice n 0 (img.len n)

/-- The whole of sector `n` replaced by `data` (20 R63). -/
def Image.put (img : Image) (n : Nat) (data : List Byte) : Image :=
  { img with mem := Memory.write img.mem (img.base n) data }

/-- The memory is canonical and lies inside the sectors. -/
def Image.wf (img : Image) : Bool := Memory.wf img.mem && Memory.below img.mem img.size

/-- `CreateEmpty()`: 720 sectors of 128 zero bytes, unlocked (43 R221; 10 R38). -/
def Image.empty : Image where
  count := Config.emptySectors
  sectorSize := .s128
  lock := false
  mem := []

/-- How many boot sectors fit `length` bytes, at most three (43 R214, R216 item 3). -/
def bootCount (length : Nat) : Nat := min Config.bootSectors (length / Config.bootSize)

/-- How many main sectors fit after three boot sectors; none without three (43 R214, R216 item 3). -/
def mainCount (size : SectorSize) (length : Nat) : Nat :=
  if bootCount length = Config.bootSectors then
    (length - Config.bootSectors * Config.bootSize) / size.toNat
  else 0

/-- The image whose sectors are cut from `data` end to end, as far as they fit; what is left over is dropped (43 R214;
20 R69). -/
def Image.ofData (size : SectorSize) (data : List Byte) : Image :=
  let blank : Image :=
    { count := bootCount data.length + mainCount size data.length, sectorSize := size, lock := false, mem := [] }
  { blank with mem := Memory.cells 0 (data.take blank.size) }

/-- What `Decode` and an image header make of the sector size field: zero is corrupt, other than 128 and 256 is
refused (43 R215, R217). -/
def headerSectorSize (size : BitVec 16) : Except Reason SectorSize :=
  if size = 0 then .error (.corruptImage .zeroSectorSize)
  else
    match sectorSizeOf size.toNat with
    | none => .error (.unsupportedSectorSize size.toNat)
    | some sz => .ok sz

/-- `Decode(bytes)` (43 R214 to R217), its tests in the order of 60 R305. -/
def Image.decode (file : List Byte) : Except Reason Image :=
  if file.length ≤ Config.headerLen then .error (.corruptImage .tooShort)
  else if file.getD 0 0 ≠ 0x96 ∨ file.getD 1 0 ≠ 0x02 then .error (.corruptImage .badMagic)
  else if 16 * (le16 (file.getD 2 0) (file.getD 3 0)).toNat > file.length - Config.headerLen then
    .error (.corruptImage .sizeExceedsData)
  else
    match headerSectorSize (le16 (file.getD 4 0) (file.getD 5 0)) with
    | .error r => .error r
    | .ok size => .ok (Image.ofData size (file.drop Config.headerLen))

/-- The 16-byte file header (30 R110). -/
def headerBytes (paragraphs sectorSize : BitVec 16) : List Byte :=
  [0x96, 0x02, lo8 paragraphs, hi8 paragraphs, lo8 sectorSize, hi8 sectorSize] ++ List.replicate 10 0

/-- `Encode(img)`: the header, then all sectors in order (43 R218); refused above 65535 paragraphs (43 R219). -/
def Image.encode (img : Image) : Except Reason (List Byte) :=
  let paragraphs := img.size / 16
  if 65535 < paragraphs then .error (.imageTooLarge paragraphs)
  else
    .ok (headerBytes (BitVec.ofNat 16 paragraphs) (BitVec.ofNat 16 img.sectorSize.toNat) ++
      (List.range img.count).flatMap fun k => img.sector (k + 1))

end Sys2Proof
end

