-- ==== Sys2Proof/Machine/Flags.lean ====
section
/-! DEFINITION. The block has no condition codes (spec 10 R42): its flags are bits of the status byte, computed each
time, and bits of a directory entry's flag byte, which are data. -/

namespace Sys2Proof

/-- Bit 7: deleted (30 R112). -/
def flagDeleted (flags : Byte) : Bool := flags.getLsbD 7
/-- Bit 6: in use (30 R112). -/
def flagInUse (flags : Byte) : Bool := flags.getLsbD 6
/-- Bit 5: locked (30 R112). -/
def flagLocked (flags : Byte) : Bool := flags.getLsbD 5

/-- `EntryKind` from the flag byte: live when bit 7 is 0 and bit 6 is 1, a free slot when the byte is 0x00 or 0x80
(44 R249). -/
def kindOf (flags : Byte) : Kind :=
  if !flagDeleted flags && flagInUse flags then .live
  else if flags = 0x00 ∨ flags = 0x80 then .freeSlot
  else .other

/-- One mask, when its condition holds. -/
def maskIf (c : Bool) (mask : Byte) : Byte := if c then mask else 0

/-- Byte 0 of the status payload: enhanced density from the sector count, active from the parameter, write-protect
from the lock (42 R174; 30 R100). -/
def statusFlags (ps : Params) (img : Image) : Byte :=
  maskIf (decide (Config.vtoc2MinSectors ≤ img.count)) ps.statusEdMask |||
    maskIf ps.statusActive ps.statusActiveMask ||| maskIf img.lock ps.statusWpMask

/-- The status payload's four bytes around its three open ones (30 R100). -/
def statusBytes (flags byte1 reserved : Byte) : List Byte :=
  [flags, byte1, Config.statusTimeout, reserved]

/-- The payload of the `S` reply (42 R174). -/
def statusPayload (ps : Params) (img : Image) : List Byte :=
  statusBytes (statusFlags ps img) ps.statusByte1 ps.statusReserved

/-- Bit `k` of a bitmap read most significant bit first: bit `7 - k mod 8` of byte `k div 8` (20 R66; 30 R114). -/
def bitmapBit (byteAt : Nat → Byte) (k : Nat) : Bool := (byteAt (k / 8)).getLsbD (7 - k % 8)

/-- The sector numbers a bitmap calls free (bit 1), counted from `first`, over `bits` bits, ascending (30 R114; 44
R246). -/
def bitmapFree (byteAt : Nat → Byte) (first bits : Nat) : List Nat :=
  ((List.range bits).filter fun k => bitmapBit byteAt k).map (first + ·)

end Sys2Proof
end

