-- ==== Sys2Proof/Machine/Layouts.lean ====
section
/-! DEFINITION. The byte layouts the parser reads and the decoder knows, each in both directions (spec 30 R111 to R116). -/

namespace Sys2Proof

/-- A directory entry from the byte at each of its 16 offsets (30 R111). -/
def dirRecordAt (b : Nat → Byte) : DirRecord where
  flags := b 0
  length := le16 (b 1) (b 2)
  start := le16 (b 3) (b 4)
  filename := (List.range 8).map fun k => b (5 + k)
  extension := (List.range 3).map fun k => b (13 + k)

/-- The 16 bytes of a directory entry (30 R111). -/
def DirRecord.bytes (r : DirRecord) : List Byte :=
  [r.flags, lo8 r.length, hi8 r.length, lo8 r.start, hi8 r.start] ++ r.filename ++ r.extension

/-- The VTOC from the byte at each offset of sector 360 (30 R113). -/
def vtocAt (b : Nat → Byte) : Vtoc where
  version := b 0
  gap1 := (List.range 2).map fun k => b (1 + k)
  free := le16 (b 3) (b 4)
  gap2 := (List.range 5).map fun k => b (5 + k)
  bitmap := (List.range 90).map fun k => b (10 + k)

/-- Bytes 0 to 99 of sector 360 (30 R113). -/
def Vtoc.bytes (v : Vtoc) : List Byte :=
  [v.version] ++ v.gap1 ++ [lo8 v.free, hi8 v.free] ++ v.gap2 ++ v.bitmap

/-- The VTOC2 from the byte at each offset of sector 1024 (30 R115). -/
def vtoc2At (b : Nat → Byte) : Vtoc2 where
  gap := (List.range 84).map b
  bitmap := (List.range 38).map fun k => b (84 + k)
  free := le16 (b 122) (b 123)

/-- Bytes 0 to 123 of sector 1024 (30 R115). -/
def Vtoc2.bytes (v : Vtoc2) : List Byte :=
  v.gap ++ v.bitmap ++ [lo8 v.free, hi8 v.free]

/-- The chain tail from a sector's last three bytes: the next-sector number high part first (30 R116; 20 R66). -/
def tailOf (t0 t1 t2 : Byte) : Tail where
  fileNo := t0.extractLsb' 2 6
  next := t0.extractLsb' 0 2 ++ t1
  dataLen := t2

/-- The three bytes of a chain tail (30 R116). -/
def Tail.bytes (t : Tail) : List Byte :=
  [t.fileNo ++ t.next.extractLsb' 8 2, t.next.extractLsb' 0 8, t.dataLen]

end Sys2Proof
end

