-- ==== Sys2Proof/Machine/Parser.lean ====
section
/-! DEFINITION. The DOS 2.x parser: lookups over an image, no state (spec 44). -/

namespace Sys2Proof

/-- `IsDOS2` (44 R241). -/
def Image.isDos2 (img : Image) : Bool :=
  decide (Config.dos2MinSectors ≤ img.count) && img.byte Config.vtocSector 0 == 2

/-- The guard of 44 R242: the value on a DOS 2 disk, else `NotDOS2`. -/
def Image.onDos2 {α : Type} (img : Image) (v : Except Reason α) : Except Reason α :=
  if img.isDos2 then v else .error .notDos2

/-- `VtocVersion` (44 R243). -/
def Image.vtocVersion (img : Image) : Except Reason Byte :=
  img.onDos2 (.ok (img.byte Config.vtocSector 0))

/-- `VtocFreeCount` (44 R243), as stored. -/
def Image.vtocFreeCount (img : Image) : Except Reason (BitVec 16) :=
  img.onDos2 (.ok (le16 (img.byte Config.vtocSector 3) (img.byte Config.vtocSector 4)))

/-- `HasVtoc2` (44 R244): the test is on the sector count. -/
def Image.hasVtoc2 (img : Image) : Bool :=
  img.isDos2 && decide (Config.vtoc2MinSectors ≤ img.count)

/-- `Vtoc2FreeCount` (44 R244), as stored; `NoVtoc2` whenever there is no second bitmap (log 19). -/
def Image.vtoc2FreeCount (img : Image) : Except Reason (BitVec 16) :=
  if img.hasVtoc2 then
    .ok (le16 (img.byte Config.vtoc2Sector 122) (img.byte Config.vtoc2Sector 123))
  else .error .noVtoc2

/-- Byte `k` of the bitmap in sector 360 (30 R113, R114). -/
def Image.bitmap1 (img : Image) (k : Nat) : Byte := img.byte Config.vtocSector (10 + k)

/-- Byte `k` of the bitmap in sector 1024 (30 R115). -/
def Image.bitmap2 (img : Image) (k : Nat) : Byte := img.byte Config.vtoc2Sector (84 + k)

/-- Bit 1 is free, bit 0 is used (30 R114). -/
def freenessOf (bit : Bool) : Freeness := if bit then .free else .used

/-- `SectorIsFree` (44 R245). -/
def Image.sectorIsFree (img : Image) (n : Nat) : Except Reason Freeness :=
  img.onDos2 <| .ok <|
    if n ≤ 719 then freenessOf (bitmapBit img.bitmap1 n)
    else if n ≤ 1023 ∧ img.hasVtoc2 then freenessOf (bitmapBit img.bitmap2 (n - 720))
    else .notCovered

/-- The free sectors of the first bitmap, ascending (44 R246). -/
def Image.free1 (img : Image) : List Nat := bitmapFree img.bitmap1 0 720

/-- The free sectors of the second bitmap, ascending; none without one (44 R246). -/
def Image.free2 (img : Image) : List Nat :=
  if img.hasVtoc2 then bitmapFree img.bitmap2 720 304 else []

/-- `FreeSectorList` (44 R246). -/
def Image.freeSectorList (img : Image) : Except Reason (List Nat) :=
  img.onDos2 (.ok (img.free1 ++ img.free2))

/-- `BitmapFreeCount`, the length of the list; `BitmapFreeCount1` and `BitmapFreeCount2` are its two terms (44 R246). -/
def Image.bitmapFreeCount (img : Image) : Except Reason Nat :=
  img.onDos2 (.ok (img.free1.length + img.free2.length))

/-- The entry at index `k`, whatever its flags (44 R248; 30 R111). -/
def Image.entryAt (img : Image) (k : Nat) : DirEntry where
  index := k
  record := dirRecordAt fun o => img.byte (Config.dirStart + k / 8) (k % 8 * 16 + o)

/-- `DirEntry` (44 R248). -/
def Image.dirEntry (img : Image) (k : Nat) : Except Reason DirEntry :=
  img.onDos2 (if 63 < k then .error .badEntryIndex else .ok (img.entryAt k))

/-- `EntryKind` (44 R249). -/
def DirEntry.kind (e : DirEntry) : Kind := kindOf e.record.flags

/-- `Directory`: the live entries in ascending order of their index; empty when the disk is not DOS 2 (44 R250). -/
def Image.directory (img : Image) : List DirEntry :=
  if img.isDos2 then
    ((List.range 64).map img.entryAt).filter fun e => e.kind == .live
  else []

/-- Trailing spaces (0x20) removed (44 R251). -/
def trimSpaces : List Byte → List Byte
  | [] => []
  | b :: rest =>
    match trimSpaces rest with
    | [] => if b = 0x20 then [] else [b]
    | kept => b :: kept

/-- `EntryName`: the trimmed filename, then a full stop and the trimmed extension when that is not blank (44 R251). -/
def DirEntry.name (e : DirEntry) : List Byte :=
  let ext := trimSpaces e.record.extension
  trimSpaces e.record.filename ++ (if ext = [] then [] else 0x2E :: ext)

/-- The decode of sector `n`'s last three bytes (44 R253). -/
def Image.tailAt (img : Image) (n : Nat) : Tail :=
  tailOf (img.byte n (img.len n - 3)) (img.byte n (img.len n - 2)) (img.byte n (img.len n - 1))

/-- `Tail` (44 R253, under the guard of R242, log 19). -/
def Image.tail (img : Image) (n : Nat) : Except Reason Tail :=
  img.onDos2 (if img.has n then .ok (img.tailAt n) else .error (.invalidSector n))

/-- The loop of 44 R254. `fuel` is `NumSectors - hops`: with none left, one more hop is more hops than sectors. -/
def Image.walk (img : Image) (fileNo : Nat) : Nat → Nat → List Byte → Except Reason (List Byte)
  | 0, cur, _ =>
    if img.has cur then .error (.chainLoop cur) else .error (.invalidSector cur)
  | fuel + 1, cur, out =>
    if img.has cur then
      let t := img.tailAt cur
      if t.fileNo.toNat ≠ fileNo then .error (.fileNumberMismatch cur t.fileNo.toNat)
      else if img.len cur - 3 < t.dataLen.toNat then .error (.badDataLength cur t.dataLen.toNat)
      else
        let out' := out ++ img.slice cur 0 t.dataLen.toNat
        if t.next = 0 then .ok out' else img.walk fileNo fuel t.next.toNat out'
    else .error (.invalidSector cur)

/-- `FileContents` (44 R254, R255). -/
def Image.fileContents (img : Image) (start fileNo : Nat) : Except Reason (List Byte) :=
  img.onDos2 (img.walk fileNo img.count start [])

end Sys2Proof
end

