-- ==== Sys2Proof/Machine/Checksum.lean ====
section
/-! DEFINITION. The checksum unit (spec 40). -/

namespace Sys2Proof

/-- One pass of the loop of 40 R130: a 16-bit add, then the carry folded back. -/
def checksumStep (acc : BitVec 16) (b : Byte) : BitVec 16 :=
  let sum := acc + b.setWidth 16
  sum % 256 + sum / 256

/-- `CK.acc` at the end of one evaluation (40 R130). -/
def checksumAcc (bytes : List Byte) : BitVec 16 :=
  bytes.foldl checksumStep Config.ckSeed

/-- `Checksum(bytes)`: the low 8 bits of the accumulator (40 R130). -/
def checksum (bytes : List Byte) : Byte :=
  (checksumAcc bytes).setWidth 8

end Sys2Proof
end

