-- ==== Sys2Proof/WellFormed.lean ====
section
/-! DEFINITION. When an instruction's operands lie in the domain the spec gives them. -/

namespace Sys2Proof

/-- The field widths of a directory entry (30 R111). -/
def DirRecord.wellFormed (r : DirRecord) : Bool :=
  r.filename.length == 8 && r.extension.length == 3

/-- The field widths of the VTOC (30 R113). -/
def Vtoc.wellFormed (v : Vtoc) : Bool :=
  v.gap1.length == 2 && v.gap2.length == 5 && v.bitmap.length == 90

/-- The field widths of the VTOC2 (30 R115). -/
def Vtoc2.wellFormed (v : Vtoc2) : Bool := v.gap.length == 84 && v.bitmap.length == 38

/-- A payload fits the length byte of a frame (30 R90). -/
def fitsFrame (p : List Byte) : Bool := decide (p.length ≤ 255)

/-- The operand domains: payloads of frames at most 255 bytes (30 R90, R93; 42 R170), a data frame 128 (R99), a chunk
offset other than the sentinel (42 R176, R177), a command code that is none of the four (R186), a payload that is
short (R171), the field widths of the layouts, an image that is canonical (log 9). Where the spec gives an operand
outside a range its own outcome, it is well-formed. -/
def Instr.wellFormed : Instr → Bool
  | .frameIn payload _ _ => fitsFrame payload
  | .writeDataFrame data _ _ => data.length == Config.wireSector
  | .replyDataA p => fitsFrame p
  | .replyDataB p => fitsFrame p
  | .cmdS _ => true
  | .cmdRChunk _ _ off => off != probeOffset
  | .cmdRProbe _ _ => true
  | .cmdW _ _ => true
  | .cmdP _ _ => true
  | .writeData data _ => fitsFrame data
  | .other cmd => !isCommandCode cmd
  | .emptyOrShort payload => isEmptyOrShort payload
  | .codeA => true
  | .codeC => true
  | .codeE => true
  | .codeN => true
  | .imageHeader _ _ => true
  | .statusPayload _ _ _ => true
  | .dirEntryStruct r => r.wellFormed
  | .vtocStruct v => v.wellFormed
  | .vtoc2Struct v => v.wellFormed
  | .chainTail _ => true
  | .rxByte _ _ => true
  | .feReset => true
  | .sendCode _ => true
  | .sendPayloadA _ => true
  | .sendPayloadB _ => true
  | .dispatch p _ => fitsFrame p
  | .decodeCommand p _ => fitsFrame p
  | .resolveDrive _ => true
  | .replyError _ => true
  | .fireDeferred _ => true
  | .sector _ _ => true
  | .writeSector _ _ _ => true
  | .imageSize _ => true
  | .numSectors _ => true
  | .decodeImage _ => true
  | .encodeImage img => img.wf
  | .createEmpty => true
  | .envSector _ _ => true
  | .envWriteSector _ _ _ => true
  | .openTransport => true
  | .closeTransport => true
  | .newImage => true
  | .loadImage _ => true
  | .saveImage _ => true
  | .destroyImage _ => true
  | .setLock _ _ => true
  | .mount _ _ => true
  | .unmount _ => true
  | .checksum _ => true
  | .memRead _ _ _ _ => true
  | .memWrite _ _ _ => true
  | .len _ _ => true
  | .isDos2 _ => true
  | .vtocVersion _ => true
  | .vtocFreeCount _ => true
  | .hasVtoc2 _ => true
  | .vtoc2FreeCount _ => true
  | .sectorIsFree _ _ => true
  | .freeSectorList _ => true
  | .bitmapFreeCount _ => true
  | .dirEntry _ _ => true
  | .entryKind e => e.record.wellFormed
  | .directory _ => true
  | .entryName e => e.record.wellFormed
  | .tail _ _ => true
  | .fileContents _ _ _ => true

end Sys2Proof
end

