-- ==== Sys2Proof/Decode.lean ====
section
/-! DEFINITION. The decoder, total on any bytes and rejecting by name, and the encoder (spec 30). The encodings of the
spec lie in several spaces, so both name the format (log 25). -/

namespace Sys2Proof

/-- The spaces in which the spec gives an encoding. -/
inductive Format where
  | line       -- the inbound serial line: each byte is one RxByte (41 R140)
  | frame      -- a whole inbound frame (30 R90)
  | dataFrame  -- a whole write data frame (30 R99)
  | replyA     -- an outbound data reply, variant A (30 R93)
  | replyB     -- an outbound data reply, variant B (30 R94)
  | code       -- an outbound reply code (30 R92)
  | command    -- the payload of a good frame, dispatcher not armed (30 R96; 42 R171)
  | data       -- the payload of a good frame, dispatcher armed (42 R170, R183)
  | header     -- the file header (30 R110)
  | status     -- the status payload (30 R100)
  | dirEntry   -- a directory entry (30 R111)
  | vtoc       -- bytes 0 to 99 of sector 360 (30 R113)
  | vtoc2      -- bytes 0 to 123 of sector 1024 (30 R115)
  | tail       -- the last three bytes of a sector (30 R116)
  deriving DecidableEq, Repr

/-- Why the decoder refuses some bytes. -/
inductive DecodeError where
  | tooFewBytes
  | payloadTooLong
  | notADataFrame
  | badReplyChecksum
  | noCompletePrefix
  | notAReplyCode
  | badMagic
  | badTimeoutByte
  deriving DecidableEq, Repr

/-- What the dispatcher reads in a payload, its tests in the order of 42 R171. -/
def decodeCommand (payload : List Byte) : Command :=
  match payload with
  | [] => .emptyOrShort []
  | cmd :: args =>
    if isCommandCode cmd = false then .other cmd
    else if args.length + 1 < commandNeed cmd then .emptyOrShort (cmd :: args)
    else
      let sel := args.getD 0 0
      let sec := le16 (args.getD 1 0) (args.getD 2 0)
      let off := args.getD 3 0
      if cmd = 0x53 then .cmdS sel
      else if cmd = 0x52 then
        if off = probeOffset then .cmdRProbe sel sec else .cmdRChunk sel sec off
      else if cmd = 0x57 then .cmdW sel sec
      else .cmdP sel sec

/-- The instruction of a decoded command. -/
def Command.toInstr : Command → Instr
  | .cmdS sel => .cmdS sel
  | .cmdRChunk sel sec off => .cmdRChunk sel sec off
  | .cmdRProbe sel sec => .cmdRProbe sel sec
  | .cmdW sel sec => .cmdW sel sec
  | .cmdP sel sec => .cmdP sel sec
  | .other cmd => .other cmd
  | .emptyOrShort payload => .emptyOrShort payload

/-- The bytes at a fixed layout's offsets, when there are `size` of them. -/
def decodeFixed (size : Nat) (bs : List Byte) (k : (Nat → Byte) → Instr) :
    Except DecodeError (Instr × List Byte) :=
  if bs.length < size then .error .tooFewBytes
  else .ok (k (fun o => bs.getD o 0), bs.drop size)

/-- A length byte, that many bytes and one more: the shape of a frame (30 R90). -/
def decodeLengthPrefixed (bs : List Byte) : Except DecodeError (List Byte × Byte × List Byte) :=
  match bs with
  | [] => .error .tooFewBytes
  | n :: rest =>
    if rest.length < n.toNat + 1 then .error .tooFewBytes
    else .ok (rest.take n.toNat, rest.getD n.toNat 0, rest.drop (n.toNat + 1))

/-- The instruction at the head of `bs` in format `f`, and the bytes after it. `now` is the time of the event, which
no encoding carries (10 R46). A payload is decoded whole. -/
def decode (f : Format) (now : Time) (bs : List Byte) : Except DecodeError (Instr × List Byte) :=
  match f with
  | .line =>
    match bs with
    | [] => .error .tooFewBytes
    | b :: rest => .ok (.rxByte b now, rest)
  | .frame =>
    match decodeLengthPrefixed bs with
    | .error e => .error e
    | .ok (payload, cs, rest) => .ok (.frameIn payload cs now, rest)
  | .dataFrame =>
    match decodeLengthPrefixed bs with
    | .error e => .error e
    | .ok (data, cs, rest) =>
      if data.length = Config.wireSector then .ok (.writeDataFrame data cs now, rest)
      else .error .notADataFrame
  | .replyA =>
    match decodeLengthPrefixed bs with
    | .error e => .error e
    | .ok (p, cs, rest) =>
      if cs = checksum p then .ok (.replyDataA p, rest) else .error .badReplyChecksum
  | .replyB =>
    match bs with
    | [] => .error .tooFewBytes
    | c :: rest =>
      if c ≠ ReplyCode.C.byte then .error .noCompletePrefix
      else if rest = [] then .error .tooFewBytes
      else if 256 < rest.length then .error .payloadTooLong
      else if rest.getLastD 0 = checksum rest.dropLast then .ok (.replyDataB rest.dropLast, [])
      else .error .badReplyChecksum
  | .code =>
    match bs with
    | [] => .error .tooFewBytes
    | b :: rest =>
      match replyCodeOf b with
      | some .A => .ok (.codeA, rest)
      | some .C => .ok (.codeC, rest)
      | some .E => .ok (.codeE, rest)
      | some .N => .ok (.codeN, rest)
      | none => .error .notAReplyCode
  | .command =>
    if 255 < bs.length then .error .payloadTooLong else .ok ((decodeCommand bs).toInstr, [])
  | .data => if 255 < bs.length then .error .payloadTooLong else .ok (.writeData bs now, [])
  | .header =>
    if bs.length < Config.headerLen then .error .tooFewBytes
    else if bs.getD 0 0 ≠ 0x96 ∨ bs.getD 1 0 ≠ 0x02 then .error .badMagic
    else
      .ok (.imageHeader (le16 (bs.getD 2 0) (bs.getD 3 0)) (le16 (bs.getD 4 0) (bs.getD 5 0)),
        bs.drop Config.headerLen)
  | .status =>
    if bs.length < 4 then .error .tooFewBytes
    else if bs.getD 2 0 ≠ Config.statusTimeout then .error .badTimeoutByte
    else .ok (.statusPayload (bs.getD 0 0) (bs.getD 1 0) (bs.getD 3 0), bs.drop 4)
  | .dirEntry => decodeFixed 16 bs fun b => .dirEntryStruct (dirRecordAt b)
  | .vtoc => decodeFixed 100 bs fun b => .vtocStruct (vtocAt b)
  | .vtoc2 => decodeFixed 124 bs fun b => .vtoc2Struct (vtoc2At b)
  | .tail => decodeFixed 3 bs fun b => .chainTail (tailOf (b 0) (b 1) (b 2))

/-- A frame on the wire around a payload, with the given checksum byte (30 R90). -/
def frameBytes (payload : List Byte) (cs : Byte) : List Byte :=
  BitVec.ofNat 8 payload.length :: payload ++ [cs]

/-- A data reply on the wire (30 R93, R94). -/
def replyFrame (v : Variant) (p : List Byte) : List Byte :=
  match v with
  | .A => frameBytes p (checksum p)
  | .B => ReplyCode.C.byte :: p ++ [checksum p]

/-- The payload of an `R` command (30 R96). -/
def readPayload (sel : Byte) (sec : BitVec 16) (off : Byte) : List Byte :=
  [0x52, sel, lo8 sec, hi8 sec, off]

/-- The encoding the spec gives an instruction, with its format; none for the rows of format op and fn (30 R107),
save that a received byte is its own. -/
def encode : Instr → Option (Format × List Byte)
  | .frameIn payload cs _ => some (.frame, frameBytes payload cs)
  | .writeDataFrame data cs _ => some (.dataFrame, frameBytes data cs)
  | .replyDataA p => some (.replyA, replyFrame .A p)
  | .replyDataB p => some (.replyB, replyFrame .B p)
  | .cmdS sel => some (.command, [0x53, sel])
  | .cmdRChunk sel sec off => some (.command, readPayload sel sec off)
  | .cmdRProbe sel sec => some (.command, readPayload sel sec probeOffset)
  | .cmdW sel sec => some (.command, [0x57, sel, lo8 sec, hi8 sec])
  | .cmdP sel sec => some (.command, [0x50, sel, lo8 sec, hi8 sec])
  | .writeData data _ => some (.data, data)
  | .other cmd => some (.command, [cmd])
  | .emptyOrShort payload => some (.command, payload)
  | .codeA => some (.code, [0x41])
  | .codeC => some (.code, [0x43])
  | .codeE => some (.code, [0x45])
  | .codeN => some (.code, [0x4E])
  | .imageHeader paragraphs sectorSize => some (.header, headerBytes paragraphs sectorSize)
  | .statusPayload flags byte1 reserved => some (.status, statusBytes flags byte1 reserved)
  | .dirEntryStruct r => some (.dirEntry, r.bytes)
  | .vtocStruct v => some (.vtoc, v.bytes)
  | .vtoc2Struct v => some (.vtoc2, v.bytes)
  | .chainTail t => some (.tail, t.bytes)
  | .rxByte b _ => some (.line, [b])
  | .feReset => none
  | .sendCode _ => none
  | .sendPayloadA _ => none
  | .sendPayloadB _ => none
  | .dispatch _ _ => none
  | .decodeCommand _ _ => none
  | .resolveDrive _ => none
  | .replyError _ => none
  | .fireDeferred _ => none
  | .sector _ _ => none
  | .writeSector _ _ _ => none
  | .imageSize _ => none
  | .numSectors _ => none
  | .decodeImage _ => none
  | .encodeImage _ => none
  | .createEmpty => none
  | .envSector _ _ => none
  | .envWriteSector _ _ _ => none
  | .openTransport => none
  | .closeTransport => none
  | .newImage => none
  | .loadImage _ => none
  | .saveImage _ => none
  | .destroyImage _ => none
  | .setLock _ _ => none
  | .mount _ _ => none
  | .unmount _ => none
  | .checksum _ => none
  | .memRead _ _ _ _ => none
  | .memWrite _ _ _ => none
  | .len _ _ => none
  | .isDos2 _ => none
  | .vtocVersion _ => none
  | .vtocFreeCount _ => none
  | .hasVtoc2 _ => none
  | .vtoc2FreeCount _ => none
  | .sectorIsFree _ _ => none
  | .freeSectorList _ => none
  | .bitmapFreeCount _ => none
  | .dirEntry _ _ => none
  | .entryKind _ => none
  | .directory _ => none
  | .entryName _ => none
  | .tail _ _ => none
  | .fileContents _ _ _ => none

/-- The time an encodable instruction carries beside its bytes (10 R46); 0 where it carries none. -/
def Instr.stamp : Instr → Time
  | .frameIn _ _ now => now
  | .writeDataFrame _ _ now => now
  | .replyDataA _ => 0
  | .replyDataB _ => 0
  | .cmdS _ => 0
  | .cmdRChunk _ _ _ => 0
  | .cmdRProbe _ _ => 0
  | .cmdW _ _ => 0
  | .cmdP _ _ => 0
  | .writeData _ now => now
  | .other _ => 0
  | .emptyOrShort _ => 0
  | .codeA => 0
  | .codeC => 0
  | .codeE => 0
  | .codeN => 0
  | .imageHeader _ _ => 0
  | .statusPayload _ _ _ => 0
  | .dirEntryStruct _ => 0
  | .vtocStruct _ => 0
  | .vtoc2Struct _ => 0
  | .chainTail _ => 0
  | .rxByte _ now => now
  | .feReset => 0
  | .sendCode _ => 0
  | .sendPayloadA _ => 0
  | .sendPayloadB _ => 0
  | .dispatch _ _ => 0
  | .decodeCommand _ _ => 0
  | .resolveDrive _ => 0
  | .replyError _ => 0
  | .fireDeferred _ => 0
  | .sector _ _ => 0
  | .writeSector _ _ _ => 0
  | .imageSize _ => 0
  | .numSectors _ => 0
  | .decodeImage _ => 0
  | .encodeImage _ => 0
  | .createEmpty => 0
  | .envSector _ _ => 0
  | .envWriteSector _ _ _ => 0
  | .openTransport => 0
  | .closeTransport => 0
  | .newImage => 0
  | .loadImage _ => 0
  | .saveImage _ => 0
  | .destroyImage _ => 0
  | .setLock _ _ => 0
  | .mount _ _ => 0
  | .unmount _ => 0
  | .checksum _ => 0
  | .memRead _ _ _ _ => 0
  | .memWrite _ _ _ => 0
  | .len _ _ => 0
  | .isDos2 _ => 0
  | .vtocVersion _ => 0
  | .vtocFreeCount _ => 0
  | .hasVtoc2 _ => 0
  | .vtoc2FreeCount _ => 0
  | .sectorIsFree _ _ => 0
  | .freeSectorList _ => 0
  | .bitmapFreeCount _ => 0
  | .dirEntry _ _ => 0
  | .entryKind _ => 0
  | .directory _ => 0
  | .entryName _ => 0
  | .tail _ _ => 0
  | .fileContents _ _ _ => 0

/-- `count` bytes of a number, the least significant first. -/
def bytesOfNat : Nat → Nat → List Byte
  | 0, _ => []
  | count + 1, w => BitVec.ofNat 8 w :: bytesOfNat count (w / 256)

/-- The bytes a command reads at most (30 R96): a table word is laid out at least that long, zeros above its bits. -/
def longestCommand : Nat := 5

/-- The table's fixed bytes are those of the reply codes (30 R92) and of the commands (30 R102); no byte is both. -/
def tableItem (nbits w : Nat) : Format × List Byte :=
  let bs := bytesOfNat (max (nbits / 8) longestCommand) w
  match replyCodeOf (bs.getD 0 0) with
  | some c => (.code, [c.byte])
  | none => (.command, bs)

/-- What the decoder reads from a word numbered as the opcode table numbers its bits. -/
def decodeTableWord (nbits w : Nat) : Option Instr :=
  match decode (tableItem nbits w).1 0 (tableItem nbits w).2 with
  | .ok (i, _) => some i
  | .error _ => none

end Sys2Proof
end

