-- ==== Sys2Proof/Machine/State.lean ====
section
/-! DEFINITION. The state of the block (spec 10), the reasons a step can stop, and the state after reset. -/

namespace Sys2Proof.Machine

/-- `FE.phase` (10 R22). -/
inductive Phase where
  | awaitLen
  | accum
  deriving DecidableEq, Repr

/-- `DP.slot[0..7]`, each none or a disk identity (10 R30). -/
structure Slots where
  slot0 : Option DiskId
  slot1 : Option DiskId
  slot2 : Option DiskId
  slot3 : Option DiskId
  slot4 : Option DiskId
  slot5 : Option DiskId
  slot6 : Option DiskId
  slot7 : Option DiskId
  deriving DecidableEq, Repr

/-- `DP.wp` while armed: the raw selector and the sector number of a write command frame (10 R32). -/
structure WritePending where
  sel : Byte
  sec : BitVec 16
  deriving DecidableEq, Repr

/-- An entry of `DP.deferred` (10 R33). -/
structure Deferred where
  due : Time
  bytes : List Byte
  deriving DecidableEq, Repr

/-- An event on `OUT.note` (10 R44). -/
inductive Notification where
  | mountChanged
  | diskChanged (d : DiskId) (n : Nat)
  deriving DecidableEq, Repr

/-- An event the outside has in store for the block (10 R46; 60 R303; log 3). -/
inductive Input where
  /-- An operation or function called, or a byte or a due time delivered. -/
  | call (i : Instr)
  /-- Encoded bytes in a format, with the time of their arrival. -/
  | encoded (f : Format) (now : Time) (bs : List Byte)
  deriving DecidableEq, Repr

/-- What an operation hands back to its caller (43, 44, 45: every "-> value"; log 4). -/
inductive Answer where
  | nothingYet
  | done
  /-- The step does not exist in this state and nothing happened (41 R140; 42 R190; log 6). -/
  | notAdmitted
  | byte (b : Byte)
  | word (w : BitVec 16)
  | number (n : Nat)
  | truth (b : Bool)
  | bytes (bs : List Byte)
  | maybeBytes (bs : Option (List Byte))
  | disk (d : DiskId)
  | image (img : Image)
  | freeness (f : Freeness)
  | numbers (ns : List Nat)
  | entry (e : DirEntry)
  | entries (es : List DirEntry)
  | kind (k : Kind)
  | tail (t : Tail)
  | header (dataBytes : Nat) (size : SectorSize)
  | entryFlags (deleted inUse locked : Bool) (k : Kind)
  | vtoc (version : Byte) (count : BitVec 16) (free : List Nat)
  | vtoc2 (count : BitVec 16) (free : List Nat)
  /-- An error outcome handed to the caller (60 R301). -/
  | error (r : Reason)
  /-- The operation is refused and nothing changed (43 R217, R219; 45 R288). -/
  | refused (r : Reason)
  deriving DecidableEq, Repr

/-- Why the machine stops with a fault. -/
inductive Fault where
  /-- Raised by an operation given an identity that is not in `DISKS`, an address the spec says does not exist
  (10 R36; log 14). Safe: the model stops. -/
  | noSuchDisk (d : DiskId)
  /-- Raised at a frame end whose buffer is shorter than `FE.N + 1`, a state no run reaches (10 R24; log 15). Safe:
  the model stops. -/
  | frameBufferShort
  deriving DecidableEq, Repr

/-- Why the model gives a step no meaning. -/
inductive Refusal where
  /-- An instruction that has no meaning in this model yet, by its table mnemonic. Raised by no arm now. Safe. -/
  | notModelled (mnemonic : String)
  /-- `SendPayload` and the data reply frames with more than 255 bytes: 41 R153 gives the call no meaning. Safe. -/
  | payloadTooLong
  /-- A data reply of the variant the block was not built with (41 R151, R152, R155; log 13). Safe. -/
  | variantNotSelected
  /-- `MemWrite` outside its requirement (20 R63; log 18). Safe. -/
  | memWriteRequires
  /-- Raised by `step` for operands outside the domain the spec gives them (log 26). Safe. -/
  | illFormed
  /-- Raised by `step` for bytes that are no item of their format (log 26). Safe. -/
  | undecodable (e : DecodeError)
  deriving DecidableEq, Repr

/-- The tuple `(FE, DP, TR, DISKS, OUT)` of 10 R20, the checksum accumulator, and the model's own fields below. -/
structure State where
  /-- `FE.phase` (10 R22). -/
  fePhase : Phase
  /-- `FE.N` (10 R23). -/
  feN : Byte
  /-- `FE.remaining` (10 R24). -/
  feRemaining : BitVec 9
  /-- `FE.buf` (10 R25). -/
  feBuf : List Byte
  /-- `FE.lastRx` (10 R26). -/
  feLastRx : Option Time
  /-- `CK.acc` (10 R28, R29), dead between evaluations (log 21). -/
  ckAcc : BitVec 16
  /-- `DP.slot` (10 R30). -/
  dpSlot : Slots
  /-- `DP.wp` (10 R32). -/
  dpWp : Option WritePending
  /-- `DP.deferred` (10 R33). -/
  dpDeferred : List Deferred
  /-- `TR.open` (10 R35). -/
  trOpen : Bool
  /-- `DISKS` (10 R36), identities strictly rising. -/
  disks : List (DiskId × Image)
  /-- The next identity to hand out (10 R31; log 10). -/
  nextDisk : DiskId
  /-- `OUT.tx` (10 R43). -/
  outTx : List (List Byte)
  /-- `OUT.note` (10 R44). -/
  outNote : List Notification
  /-- `OUT.log` (10 R45). -/
  outLog : List Reason
  /-- The model's own: the constants of the run (10 R34; log 1). -/
  params : Params
  /-- The model's own: the pending events, the next first (10 R46; log 3). -/
  inputs : List Input
  /-- The model's own: the last answer to a caller (log 4). -/
  ret : Answer
  /-- The model's own: how many free values have been drawn (log 5). -/
  draws : Nat
  deriving DecidableEq, Repr

/-- Nothing mounted (10 R47). -/
def Slots.empty : Slots := ⟨none, none, none, none, none, none, none, none⟩

/-- The block right after reset (10 R47; 70 R340). DESIGN CHOICE (unsafe): `feN`, `feRemaining` (log 7), `ckAcc` (log
21), `nextDisk` (log 10), `params` (log 1, 2), `inputs` (log 3), `ret` (log 4), `draws` (log 5). -/
def State.reset : State where
  fePhase := .awaitLen
  feN := 0
  feRemaining := 0
  feBuf := []
  feLastRx := none
  ckAcc := 0
  dpSlot := Slots.empty
  dpWp := none
  dpDeferred := []
  trOpen := false
  disks := []
  nextDisk := 0
  outTx := []
  outNote := []
  outLog := []
  params := Params.standard
  inputs := []
  ret := .nothingYet
  draws := 0

end Sys2Proof.Machine
end

