-- ==== Sys2Proof/Machine/Ops.lean ====
section
/-! DEFINITION. The named operations over the state (spec 00 R9), and an error outcome as one operation (spec 42 R173;
60 R301). The block has no return from an error (60 R308): after it the next step runs as after any other. -/

namespace Sys2Proof.Machine

/-- What every meaning answers. -/
abbrev Result := Host.Outcome State Fault Refusal

/-- `Tx(bytes)`: one burst on `OUT.tx` (00 R9; 10 R43). -/
def State.tx (s : State) (bytes : List Byte) : State := { s with outTx := s.outTx ++ [bytes] }

/-- `Note(event)` (00 R9; 10 R44). -/
def State.note (s : State) (e : Notification) : State := { s with outNote := s.outNote ++ [e] }

/-- `Log(reason)` (00 R9; 10 R45). -/
def State.logged (s : State) (r : Reason) : State := { s with outLog := s.outLog ++ [r] }

/-- What the caller gets (log 4). -/
def State.answer (s : State) (a : Answer) : State := { s with ret := a }

/-- The operation is over, with no value. -/
def State.done (s : State) : State := s.answer .done

/-- `Defer(due, bytes)` (42 R189). -/
def State.defer (s : State) (due : Time) (bytes : List Byte) : State :=
  { s with dpDeferred := s.dpDeferred ++ [⟨due, bytes⟩] }

/-- `DP.wp <- v` (10 R32). -/
def State.setWp (s : State) (v : Option WritePending) : State := { s with dpWp := v }

/-- `FEReset()` (41 R147). -/
def State.feReset (s : State) : State := { s with fePhase := .awaitLen, feBuf := [] }

/-- One evaluation of `Checksum` runs and leaves its last accumulator (10 R28; 40 R130; log 21). -/
def State.evalChecksum (s : State) (bytes : List Byte) : State := { s with ckAcc := checksumAcc bytes }

/-- A free value has been drawn (log 5). -/
def State.drawn (s : State) : State := { s with draws := s.draws + 1 }

/-- `SendCode(c)` (41 R150). -/
def State.sendCode (s : State) (c : ReplyCode) : State := s.tx [c.byte]

/-- `SendPayload(p)` in the framing of `VARIANT` (41 R151, R152). -/
def State.sendPayload (s : State) (p : List Byte) : State :=
  (s.evalChecksum p).tx (replyFrame s.params.variant p)

/-- `ReplyError(reason)`: the log, then one `E` (42 R173). The one way a command fails. -/
def State.replyError (s : State) (r : Reason) : State := ((s.logged r).sendCode .E).done

/-- The refusals of the spec (43 R217, R219; 45 R288), the other reasons being errors (60 R301; log 27). -/
def answerOf : Reason → Answer
  | .unsupportedSectorSize size => .refused (.unsupportedSectorSize size)
  | .imageTooLarge paragraphs => .refused (.imageTooLarge paragraphs)
  | .mountRefused d slot => .refused (.mountRefused d slot)
  | r => .error r

/-- `raise <Error>` to the caller: nothing changes but the answer (00 R9, R10). The one way a call fails. -/
def State.raised (s : State) (r : Reason) : State := s.answer (answerOf r)

/-- The end of an operation that gives a value or raises. -/
def State.finish (s : State) {α : Type} (v : Except Reason α) (k : α → Answer) : State :=
  match v with
  | .ok a => s.answer (k a)
  | .error r => s.raised r

/-! The drive slot table. -/

/-- `DP.slot[drive]`; none outside 0..7. -/
def Slots.get (t : Slots) : Nat → Option DiskId
  | 0 => t.slot0
  | 1 => t.slot1
  | 2 => t.slot2
  | 3 => t.slot3
  | 4 => t.slot4
  | 5 => t.slot5
  | 6 => t.slot6
  | 7 => t.slot7
  | _ => none

/-- `DP.slot[drive] <- v`; no slot outside 0..7. -/
def Slots.put (t : Slots) (drive : Nat) (v : Option DiskId) : Slots :=
  match drive with
  | 0 => { t with slot0 := v }
  | 1 => { t with slot1 := v }
  | 2 => { t with slot2 := v }
  | 3 => { t with slot3 := v }
  | 4 => { t with slot4 := v }
  | 5 => { t with slot5 := v }
  | 6 => { t with slot6 := v }
  | 7 => { t with slot7 := v }
  | _ => t

/-- An element with disk `d` taken out of it. -/
def dropDisk (d : DiskId) (v : Option DiskId) : Option DiskId := if v = some d then none else v

/-- Every slot that holds `d` becomes none (45 R288, R289). -/
def Slots.clear (t : Slots) (d : DiskId) : Slots where
  slot0 := dropDisk d t.slot0
  slot1 := dropDisk d t.slot1
  slot2 := dropDisk d t.slot2
  slot3 := dropDisk d t.slot3
  slot4 := dropDisk d t.slot4
  slot5 := dropDisk d t.slot5
  slot6 := dropDisk d t.slot6
  slot7 := dropDisk d t.slot7

/-- Disk `d` is in some slot. -/
def Slots.holds (t : Slots) (d : DiskId) : Bool :=
  (List.range 8).any fun drive => t.get drive == some d

/-! The disk images. -/

/-- `DISKS[d]`, if `d` is in `DISKS`. -/
def findDisk : List (DiskId × Image) → DiskId → Option Image
  | [], _ => none
  | (k, img) :: rest, d => if k = d then some img else findDisk rest d

/-- `DISKS[d] <- img`, for a `d` in `DISKS`. -/
def replaceDisk (disks : List (DiskId × Image)) (d : DiskId) (img : Image) : List (DiskId × Image) :=
  disks.map fun e => if e.1 = d then (d, img) else e

/-- `DISKS` without `d`. -/
def removeDisk (disks : List (DiskId × Image)) (d : DiskId) : List (DiskId × Image) :=
  disks.filter fun e => decide (e.1 ≠ d)

/-- The image of a live identity. -/
def State.image (s : State) (d : DiskId) : Option Image := findDisk s.disks d

/-- `DISKS[d] <- img`. -/
def State.setImage (s : State) (d : DiskId) (img : Image) : State :=
  { s with disks := replaceDisk s.disks d img }

/-- A fresh identity for `img` (45 R283, R284). -/
def State.addImage (s : State) (img : Image) : State :=
  { s with disks := s.disks ++ [(s.nextDisk, img)], nextDisk := s.nextDisk + 1 }

/-- Go on with `DISKS[d]`; an identity outside `DISKS` names nothing (10 R36; log 14). -/
def State.withImage (s : State) (d : DiskId) (k : Image → Result) : Result :=
  match s.image d with
  | some img => k img
  | none => .fault (.noSuchDisk d)

/-- Answer a value of `DISKS[d]`, with no other effect: the shape of every lookup (00 R10; 44 R240). -/
def State.lookup (s : State) (d : DiskId) {α : Type} (v : Image → Except Reason α) (k : α → Answer) : Result :=
  s.withImage d fun img => .next (s.finish (v img) k)

/-- `MemWrite(d, n, data)` on an image that has sector `n` (20 R63). -/
def State.putSector (s : State) (d : DiskId) (img : Image) (n : Nat) (data : List Byte) : State :=
  s.setImage d (img.put n data)

/-- `Sector(d, n)`: the copy of a sector, or none and a log (43 R211). -/
def State.readSector (s : State) (d : DiskId) (n : Nat) : Result :=
  s.withImage d fun img =>
    if img.has n then .next (s.answer (.maybeBytes (some (img.sector n))))
    else .next ((s.logged (.invalidSectorNumber n)).answer (.maybeBytes none))

/-- `WriteSector` on an image: the whole sector, or a log and nothing else (43 R212). -/
def State.storeSector (s : State) (d : DiskId) (img : Image) (n : Nat) (data : List Byte) : State :=
  if img.has n then
    if data.length = img.len n then s.putSector d img n data
    else s.logged (.badSectorLength n data.length)
  else s.logged (.invalidSectorNumber n)

/-- `Unmount(d)` (45 R289). -/
def State.unmounted (s : State) (d : DiskId) : State :=
  { s with dpSlot := s.dpSlot.clear d }.note .mountChanged

/-- `ResolveDrive(sel)` (42 R172). -/
def resolveDrive (s : State) (sel : Byte) : Except Reason DiskId :=
  match driveOf sel with
  | none => .error (.invalidDrive sel)
  | some drive =>
    match s.dpSlot.get drive with
    | none => .error (.driveEmpty drive)
    | some d => .ok d

/-- A command's drive: `ReplyError` when it does not resolve, else go on with the disk and its image (42 R172, R173). -/
def onDrive (s : State) (sel : Byte) (k : DiskId → Image → Result) : Result :=
  match resolveDrive s sel with
  | .error r => .next (s.replyError r)
  | .ok d => s.withImage d (k d)

/-- A command ends in `ReplyError` when its check gives a reason, else it goes on. -/
def orReply (s : State) (check : Option Reason) (k : Result) : Result :=
  match check with
  | some r => .next (s.replyError r)
  | none => k

/-- The sector a wire command names: it exists, then it is 128 bytes long (42 R176, R183; order of 60 R305). -/
def wireSectorCheck (img : Image) (sec : BitVec 16) : Option Reason :=
  if img.has sec.toNat then
    if img.len sec.toNat = Config.wireSector then none else some (.sectorNot128 sec.toNat)
  else some (.invalidSector sec.toNat)

end Sys2Proof.Machine
end

