-- ==== Sys2Proof/Machine/Commands.lean ====
section
/-! DEFINITION. The commands of the dispatcher (spec 42). DESIGN CHOICE (log 32): called by itself on a closed transport,
an event the spec does not have, each meaning here runs as on an open one, but for `execFireDeferred`. -/

namespace Sys2Proof.Machine

/-- `S`, drive status (42 R174, R175). DESIGN CHOICE (log 32): it replies on a closed transport too. -/
def execCmdS (sel : Byte) (s : State) : Result :=
  onDrive s sel fun _ img => .next (s.sendPayload (statusPayload s.params img)).done

/-- `Read(sel, sec, off)` (42 R176 to R179). DESIGN CHOICE (log 32): it replies on a closed transport too. -/
def readCommand (sel : Byte) (sec : BitVec 16) (off : Byte) (s : State) : Result :=
  onDrive s sel fun _ img =>
    orReply s (wireSectorCheck img sec) <|
      if off = probeOffset then .next (s.sendCode .A).done
      else if off.toNat ≤ lastChunkOffset then
        .next (s.sendPayload (img.slice sec.toNat off.toNat Config.chunk)).done
      else .next (s.replyError (.invalidOffset off))

/-- `R` with an offset (42 R176, R178, R179). -/
def execCmdRChunk (sel : Byte) (sec : BitVec 16) (off : Byte) (s : State) : Result :=
  readCommand sel sec off s

/-- `R` with the sentinel: does the sector exist (42 R177)? -/
def execCmdRProbe (sel : Byte) (sec : BitVec 16) (s : State) : Result :=
  readCommand sel sec probeOffset s

/-- A write command frame arms the dispatcher, with nothing checked and nothing sent (42 R182). DESIGN CHOICE (log 32): on
a closed transport too, and a later `Open` keeps the pending write. -/
def armWrite (sel : Byte) (sec : BitVec 16) (s : State) : Result :=
  .next (s.setWp (some ⟨sel, sec⟩)).done

/-- `W` (42 R182). -/
def execCmdW (sel : Byte) (sec : BitVec 16) (s : State) : Result := armWrite sel sec s

/-- `P`, which does what `W` does (42 R181, R182). -/
def execCmdP (sel : Byte) (sec : BitVec 16) (s : State) : Result := armWrite sel sec s

/-- Every other code (42 R186, R187). DESIGN CHOICE (log 32): it replies on a closed transport too. -/
def execOther (cmd : Byte) (s : State) : Result := .next (s.replyError (.unknownCommand cmd))

/-- A payload with no code, or shorter than its command reads (42 R171; 30 R97). DESIGN CHOICE (log 32): it replies on a
closed transport too. -/
def execEmptyOrShort (_payload : List Byte) (s : State) : Result := .next (s.replyError .shortFrame)

/-- The meaning of a decoded command. -/
def runCommand (c : Command) (s : State) : Result :=
  match c with
  | .cmdS sel => execCmdS sel s
  | .cmdRChunk sel sec off => execCmdRChunk sel sec off s
  | .cmdRProbe sel sec => execCmdRProbe sel sec s
  | .cmdW sel sec => execCmdW sel sec s
  | .cmdP sel sec => execCmdP sel sec s
  | .other cmd => execOther cmd s
  | .emptyOrShort payload => execEmptyOrShort payload s

/-- `DecodeCommand(p, now)`: no command that is not write data uses the time (42 R171). DESIGN CHOICE (log 32): it runs on
a closed transport too. -/
def execDecodeCommand (p : List Byte) (_now : Time) (s : State) : Result :=
  runCommand (decodeCommand p) s

/-- The lock, the sector, then the length of the data, in the order of 60 R305 (42 R183). -/
def writeCheck (img : Image) (sec : BitVec 16) (data : List Byte) : Option Reason :=
  if img.lock then some .diskLocked
  else
    match wireSectorCheck img sec with
    | some r => some r
    | none => if data.length = Config.wireSector then none else some (.badWriteLength data.length)

/-- A good write: the sector, the notification, `A`, and the deferred `C`, in this order (42 R183, R184). -/
def commitWrite (d : DiskId) (img : Image) (n : Nat) (data : List Byte) (now : Time) (s : State) : State :=
  ((((s.putSector d img n data).note (.diskChanged d n)).sendCode .A).defer (now + s.params.tCompleteMin)
    [ReplyCode.C.byte]).done

/-- `WriteData(p, now)` for the pending write `wp`; it disarms on every path (42 R183). -/
def writeData (wp : WritePending) (data : List Byte) (now : Time) (s : State) : Result :=
  let s := s.setWp none
  onDrive s wp.sel fun d img =>
    orReply s (writeCheck img wp.sec data) <| .next (commitWrite d img wp.sec.toNat data now s)

/-- The payload of a good frame: data when the dispatcher is armed, else a command by its first byte (42 R183, R185
item 4; log 22). DESIGN CHOICE (log 32): on a closed transport too it writes, replies and defers its `C`. -/
def execWriteData (data : List Byte) (now : Time) (s : State) : Result :=
  match s.dpWp with
  | some wp => writeData wp data now s
  | none => execDecodeCommand data now s

/-- `Dispatch(p, now)` (42 R170), which only a frame end calls (41 R144). DESIGN CHOICE (log 32): called by itself on a
closed transport it runs too. -/
def execDispatch (p : List Byte) (now : Time) (s : State) : Result :=
  match s.dpWp with
  | some _ => execWriteData p now s
  | none => execDecodeCommand p now s

/-- `ResolveDrive(sel)` as a call (42 R172). -/
def execResolveDrive (sel : Byte) (s : State) : Result :=
  .next (s.finish (resolveDrive s sel) .disk)

/-- `ReplyError(reason)` (42 R173). DESIGN CHOICE (log 32): it sends on a closed transport too. -/
def execReplyError (r : Reason) (s : State) : Result := .next (s.replyError r)

/-- `FireDeferred(now)`: enabled while open when the first entry is due; it sends that entry (42 R190). Not enabled,
the step does not exist and nothing happens (log 6). -/
def execFireDeferred (now : Time) (s : State) : Result :=
  match s.dpDeferred with
  | [] => .next (s.answer .notAdmitted)
  | e :: rest =>
    if s.trOpen ∧ e.due ≤ now then .next ({ s with dpDeferred := rest }.tx e.bytes).done
    else .next (s.answer .notAdmitted)

end Sys2Proof.Machine
end

