-- ==== Sys2Proof/Machine/Engine.lean ====
section
/-! DEFINITION. The frame protocol engine, inbound (spec 41 R140 to R149). -/

namespace Sys2Proof.Machine

/-- The idle check, before the byte is looked at: strictly more than `T_IDLE` since the previous byte (41 R141; log
23). -/
def State.idleChecked (s : State) (now : Time) : State :=
  match s.feLastRx with
  | none => s
  | some last => if last + s.params.tIdle < now then s.feReset else s

/-- The time stamp of the latest byte (10 R26). -/
def State.received (s : State) (now : Time) : State := { s with feLastRx := some now }

/-- A length byte (41 R142). In a block built with `LEN255_DEGENERATE` the byte 0xFF is dropped: the phase stays, and
what `FE.N`, `FE.remaining`, `FE.buf` hold is free (log 16). -/
def State.lengthByte (s : State) (b : Byte) : State :=
  if s.params.len255Degenerate ∧ b = 0xFF then
    { s with
      feN := Config.degenerateN s.draws
      feRemaining := Config.degenerateRemaining s.draws
      feBuf := if Config.degenerateClears s.draws then [] else s.feBuf }.drawn
  else { s with feN := b, feRemaining := b.setWidth 9 + 1, feBuf := [], fePhase := .accum }

/-- The end of a frame: back to awaiting-length, then the dispatcher or the log (41 R144 to R146). -/
def frameEnd (now : Time) (s : State) : Result :=
  match s.feBuf[s.feN.toNat]? with
  | none => .fault .frameBufferShort
  | some cs =>
    let payload := s.feBuf.take s.feN.toNat
    let s := { s with fePhase := .awaitLen }.evalChecksum payload
    if checksum payload = cs then execDispatch payload now s
    else .next (s.logged .checksumMismatch).done

/-- A byte while accumulating (41 R143). -/
def accumulate (b : Byte) (now : Time) (s : State) : Result :=
  let s := { s with feBuf := s.feBuf ++ [b], feRemaining := s.feRemaining - 1 }
  if s.feRemaining = 0 then frameEnd now s else .next s.done

/-- A byte once it is admitted (41 R140). -/
def admittedByte (b : Byte) (now : Time) (s : State) : Result :=
  let s := (s.idleChecked now).received now
  match s.fePhase with
  | .awaitLen => .next (s.lengthByte b).done
  | .accum => accumulate b now s

/-- `RxByte(b, now)`. On a closed transport no byte is taken: the step does not exist and nothing happens (41 R140; 70
R343; log 6). -/
def execRxByte (b : Byte) (now : Time) (s : State) : Result :=
  if s.trOpen then admittedByte b now s else .next (s.answer .notAdmitted)

/-- `FEReset()` (41 R147), which the spec uses only inside the idle timeout, `Open` and `Close`. DESIGN CHOICE (unsafe, log
33): called by itself, an event 60 R303 does not have, it runs in every state, and drops a partial frame. -/
def execFeReset (s : State) : Result := .next s.feReset.done

/-- Bytes received one after the other with one time stamp. -/
def rxBytes (now : Time) : List Byte → State → Result
  | [], s => .next s
  | b :: rest, s =>
    match execRxByte b now s with
    | .next t => rxBytes now rest t
    | .fault f => .fault f
    | .refused r => .refused r

/-- `FRAME_IN`: the frame's bytes are received in the order written (30 R90; 20 R67; log 12). -/
def execFrameIn (payload : List Byte) (cs : Byte) (now : Time) (s : State) : Result :=
  rxBytes now (frameBytes payload cs) s

/-- `WRITE_DATA_FRAME`: an ordinary inbound frame of 128 payload bytes (30 R99; log 12). -/
def execWriteDataFrame (data : List Byte) (cs : Byte) (now : Time) (s : State) : Result :=
  rxBytes now (frameBytes data cs) s

end Sys2Proof.Machine
end

