-- ==== Sys2Proof/Machine/Environment.lean ====
section
/-! DEFINITION. The operations of the environment (spec 45). -/

namespace Sys2Proof.Machine

/-- `Open()`: the frame engine starts again, disks stay mounted (45 R281). -/
def execOpenTransport (s : State) : Result :=
  .next { s.feReset with trOpen := true, feLastRx := none }.done

/-- `Close()`: as `Open` for the frame engine, and the deferred replies and the pending write are gone (45 R282). -/
def execCloseTransport (s : State) : Result :=
  .next { s.feReset with trOpen := false, feLastRx := none, dpDeferred := [], dpWp := none }.done

/-- `NewImage()` (45 R283). -/
def execNewImage (s : State) : Result :=
  .next ((s.addImage Image.empty).answer (.disk s.nextDisk))

/-- `LoadImage(bytes)`: no partial image is produced (45 R284). -/
def execLoadImage (file : List Byte) (s : State) : Result :=
  match Image.decode file with
  | .ok img => .next ((s.addImage img).answer (.disk s.nextDisk))
  | .error r => .next (s.raised r)

/-- `SaveImage(d)` (45 R285). -/
def execSaveImage (d : DiskId) (s : State) : Result := s.lookup d Image.encode .bytes

/-- `DestroyImage(d)`: `Unmount(d)` when it is in a slot, then out of `DISKS` (45 R286). -/
def execDestroyImage (d : DiskId) (s : State) : Result :=
  let s := if s.dpSlot.holds d then s.unmounted d else s
  .next { s with disks := removeDisk s.disks d }.done

/-- `SetLock(d, v)`, with no notification (45 R287). -/
def execSetLock (d : DiskId) (v : Bool) (s : State) : Result :=
  s.withImage d fun img => .next (s.setImage d { img with lock := v }).done

/-- `Mount(d, i)`: out of every other slot, into slot `i`, one notification; refused outside its requirement (45
R288). -/
def execMount (d : DiskId) (slot : Nat) (s : State) : Result :=
  if slot ≤ 7 ∧ (s.image d).isSome then
    .next ({ s with dpSlot := (s.dpSlot.clear d).put slot (some d) }.note .mountChanged).done
  else .next (s.raised (.mountRefused d slot))

/-- `Unmount(d)`, notified whether or not `d` was mounted (45 R289). -/
def execUnmount (d : DiskId) (s : State) : Result := .next (s.unmounted d).done

end Sys2Proof.Machine
end

