-- ==== Sys2Proof/Machine/Filesystem.lean ====
section
/-! DEFINITION. The parser's functions as calls by disk identity (spec 44; 20 R64). None writes any state but the
answer (44 R240). -/

namespace Sys2Proof.Machine

/-- `IsDOS2` (44 R241). -/
def execIsDos2 (d : DiskId) (s : State) : Result := s.lookup d (fun img => .ok img.isDos2) .truth
/-- `VtocVersion` (44 R243). -/
def execVtocVersion (d : DiskId) (s : State) : Result := s.lookup d Image.vtocVersion .byte
/-- `VtocFreeCount` (44 R243). -/
def execVtocFreeCount (d : DiskId) (s : State) : Result := s.lookup d Image.vtocFreeCount .word
/-- `HasVtoc2` (44 R244). -/
def execHasVtoc2 (d : DiskId) (s : State) : Result := s.lookup d (fun img => .ok img.hasVtoc2) .truth
/-- `Vtoc2FreeCount` (44 R244). -/
def execVtoc2FreeCount (d : DiskId) (s : State) : Result := s.lookup d Image.vtoc2FreeCount .word
/-- `SectorIsFree` (44 R245). -/
def execSectorIsFree (d : DiskId) (n : Nat) (s : State) : Result :=
  s.lookup d (fun img => img.sectorIsFree n) .freeness
/-- `FreeSectorList` (44 R246). -/
def execFreeSectorList (d : DiskId) (s : State) : Result := s.lookup d Image.freeSectorList .numbers
/-- `BitmapFreeCount` (44 R246). -/
def execBitmapFreeCount (d : DiskId) (s : State) : Result := s.lookup d Image.bitmapFreeCount .number
/-- `DirEntry` (44 R248). -/
def execDirEntry (d : DiskId) (k : Nat) (s : State) : Result :=
  s.lookup d (fun img => img.dirEntry k) .entry
/-- `EntryKind` (44 R249). -/
def execEntryKind (e : DirEntry) (s : State) : Result := .next (s.answer (.kind e.kind))
/-- `Directory` (44 R250). -/
def execDirectory (d : DiskId) (s : State) : Result :=
  s.lookup d (fun img => .ok img.directory) .entries
/-- `EntryName`, as bytes (44 R251; log 31). -/
def execEntryName (e : DirEntry) (s : State) : Result := .next (s.answer (.bytes e.name))
/-- `Tail` (44 R253). -/
def execTail (d : DiskId) (n : Nat) (s : State) : Result := s.lookup d (fun img => img.tail n) .tail
/-- `FileContents` (44 R254). -/
def execFileContents (d : DiskId) (start fileNo : Nat) (s : State) : Result :=
  s.lookup d (fun img => img.fileContents start fileNo) .bytes

end Sys2Proof.Machine
end

