-- ==== Sys2Proof/Machine/Layout.lean ====
section
/-! DEFINITION. The byte layouts as instructions: a layout is data, so its meaning is to be read by its rule, with no
effect but the answer (spec 30 R100, R110 to R116; log 11). -/

namespace Sys2Proof.Machine

/-- `IMAGE_HEADER`: the bytes it declares and its sector size (30 R110; 43 R215, R217). -/
def execImageHeader (paragraphs sectorSize : BitVec 16) (s : State) : Result :=
  .next (s.finish (headerSectorSize sectorSize) (.header (16 * paragraphs.toNat)))

/-- `STATUS_PAYLOAD`: its four bytes (30 R100). -/
def execStatusPayload (flags byte1 reserved : Byte) (s : State) : Result :=
  .next (s.answer (.bytes (statusBytes flags byte1 reserved)))

/-- `DIR_ENTRY`: its flag bits and what they make of it (30 R112; 44 R249). -/
def execDirEntryStruct (r : DirRecord) (s : State) : Result :=
  .next (s.answer
    (.entryFlags (flagDeleted r.flags) (flagInUse r.flags) (flagLocked r.flags) (kindOf r.flags)))

/-- `VTOC`: version, stored free count, and the sectors its bitmap calls free (30 R113, R114). -/
def execVtocStruct (v : Vtoc) (s : State) : Result :=
  .next (s.answer (.vtoc v.version v.free (bitmapFree (fun k => v.bitmap.getD k 0) 0 720)))

/-- `VTOC2`: stored free count, and the sectors its bitmap calls free (30 R115). -/
def execVtoc2Struct (v : Vtoc2) (s : State) : Result :=
  .next (s.answer (.vtoc2 v.free (bitmapFree (fun k => v.bitmap.getD k 0) 720 304)))

/-- `CHAIN_TAIL`: file number, next sector, data length (30 R116). -/
def execChainTail (t : Tail) (s : State) : Result := .next (s.answer (.tail t))

end Sys2Proof.Machine
end

