-- ==== Sys2Proof/Machine/Replies.lean ====
section
/-! DEFINITION. The reply codes and the data reply frames, each as the act of sending it (spec 30 R92 to R95; log 12).
DESIGN CHOICE (log 32): called by itself on a closed transport, an event the spec does not have, each sends all the same. -/

namespace Sys2Proof.Machine

/-- The row `A`, acknowledge (30 R92; 41 R150). -/
def execCodeA (s : State) : Result := .next (s.sendCode .A).done
/-- The row `C`, complete (30 R92; 41 R150). -/
def execCodeC (s : State) : Result := .next (s.sendCode .C).done
/-- The row `E`, error (30 R92; 41 R150). -/
def execCodeE (s : State) : Result := .next (s.sendCode .E).done
/-- The row `N`, negative (30 R92; 41 R150); no other operation calls it (42 R188). -/
def execCodeN (s : State) : Result := .next (s.sendCode .N).done

/-- `SendPayload(p)` in a block built with variant `v` (41 R151 to R153, R155). DESIGN CHOICE (log 32): it sends on a
closed transport too. -/
def sendPayloadAs (v : Variant) (p : List Byte) (s : State) : Result :=
  if s.params.variant ≠ v then .refused .variantNotSelected
  else if 255 < p.length then .refused .payloadTooLong
  else .next (s.sendPayload p).done

/-- The frame `REPLY_DATA_A`, sent (30 R93). -/
def execReplyDataA (p : List Byte) (s : State) : Result := sendPayloadAs .A p s
/-- The frame `REPLY_DATA_B`, sent (30 R94). -/
def execReplyDataB (p : List Byte) (s : State) : Result := sendPayloadAs .B p s
/-- `SendPayload_A` (41 R151). -/
def execSendPayloadA (p : List Byte) (s : State) : Result := sendPayloadAs .A p s
/-- `SendPayload_B` (41 R152). -/
def execSendPayloadB (p : List Byte) (s : State) : Result := sendPayloadAs .B p s
/-- `SendCode(c)` (41 R150). DESIGN CHOICE (log 32): it sends on a closed transport too. -/
def execSendCode (c : ReplyCode) (s : State) : Result := .next (s.sendCode c).done

end Sys2Proof.Machine
end

