-- ==== Sys2Proof/Machine/Store.lean ====
section
/-! DEFINITION. The disk image store and its memory (spec 43; 20 R61 to R63; 40 R130). -/

namespace Sys2Proof.Machine

/-- `Sector(d, n)` (43 R211). -/
def execSector (d : DiskId) (n : Nat) (s : State) : Result := s.readSector d n

/-- `WriteSector(d, n, data)`: it reports no failure and does not look at the lock (43 R212). -/
def execWriteSector (d : DiskId) (n : Nat) (data : List Byte) (s : State) : Result :=
  s.withImage d fun img => .next (s.storeSector d img n data).done

/-- `Size(d)` (43 R213). -/
def execImageSize (d : DiskId) (s : State) : Result :=
  s.lookup d (fun img => .ok img.size) .number

/-- `NumSectors(d)` (43 R213). -/
def execNumSectors (d : DiskId) (s : State) : Result :=
  s.lookup d (fun img => .ok img.count) .number

/-- `Decode(bytes)` as a call (43 R214 to R217). -/
def execDecodeImage (file : List Byte) (s : State) : Result :=
  .next (s.finish (Image.decode file) .image)

/-- `Encode(img)` as a call (43 R218, R219). -/
def execEncodeImage (img : Image) (s : State) : Result := .next (s.finish img.encode .bytes)

/-- `CreateEmpty()` as a call (43 R221). -/
def execCreateEmpty (s : State) : Result := .next (s.answer (.image Image.empty))

/-- `EnvSector(d, n)`, which is `Sector(d, n)`: reads are never blocked by a lock (43 R222). -/
def execEnvSector (d : DiskId) (n : Nat) (s : State) : Result := s.readSector d n

/-- `EnvWriteSector(d, n, data)`: the lock first, then `WriteSector`, and a notification when that wrote (43 R222). -/
def execEnvWriteSector (d : DiskId) (n : Nat) (data : List Byte) (s : State) : Result :=
  s.withImage d fun img =>
    if img.lock then .next (s.raised .diskLocked)
    else if img.has n ∧ data.length = img.len n then
      .next ((s.storeSector d img n data).note (.diskChanged d n)).done
    else .next (s.storeSector d img n data).done

/-- `Checksum(bytes)` (40 R130). -/
def execChecksum (bytes : List Byte) (s : State) : Result :=
  .next ((s.evalChecksum bytes).answer (.byte (checksum bytes)))

/-- `MemRead(d, n, off, len)` (20 R62); past the sector's end the answer is free (log 17). -/
def execMemRead (d : DiskId) (n off len : Nat) (s : State) : Result :=
  s.withImage d fun img =>
    if img.has n = false then .next (s.answer (.maybeBytes none))
    else if off + len ≤ img.len n then .next (s.answer (.maybeBytes (some (img.slice n off len))))
    else .next (s.drawn.answer (.maybeBytes (Config.readPastSector s.draws)))

/-- `MemWrite(d, n, data)` (20 R63); outside its requirement it has no meaning (log 18). DESIGN CHOICE
(unsafe, log 33): called by itself, an event 60 R303 does not have, it writes, without a look at the lock or a
notification. -/
def execMemWrite (d : DiskId) (n : Nat) (data : List Byte) (s : State) : Result :=
  s.withImage d fun img =>
    if img.has n ∧ data.length = img.len n then .next (s.putSector d img n data).done
    else .refused .memWriteRequires

/-- `Len(d, n)` (20 R61); for `n = 0` the answer is free (log 17). -/
def execLen (d : DiskId) (n : Nat) (s : State) : Result :=
  s.withImage d fun img =>
    if n = 0 then .next (s.drawn.answer (.number (Config.lenOfSectorZero s.draws)))
    else .next (s.answer (.number (img.len n)))

end Sys2Proof.Machine
end

