-- ==== Sys2Proof/Machine/Dispatch.lean ====
section
/-! DEFINITION. One arm per row of spec/opcode_table.json, in its order. -/

namespace Sys2Proof.Machine

def exec (i : Instr) (s : State) : Host.Outcome State Fault Refusal :=
  match i with
  | .frameIn payload cs now => Sys2Proof.Machine.execFrameIn payload cs now s
  | .writeDataFrame data cs now => Sys2Proof.Machine.execWriteDataFrame data cs now s
  | .replyDataA p => Sys2Proof.Machine.execReplyDataA p s
  | .replyDataB p => Sys2Proof.Machine.execReplyDataB p s
  | .cmdS sel => Sys2Proof.Machine.execCmdS sel s
  | .cmdRChunk sel sec off => Sys2Proof.Machine.execCmdRChunk sel sec off s
  | .cmdRProbe sel sec => Sys2Proof.Machine.execCmdRProbe sel sec s
  | .cmdW sel sec => Sys2Proof.Machine.execCmdW sel sec s
  | .cmdP sel sec => Sys2Proof.Machine.execCmdP sel sec s
  | .writeData data now => Sys2Proof.Machine.execWriteData data now s
  | .other cmd => Sys2Proof.Machine.execOther cmd s
  | .emptyOrShort payload => Sys2Proof.Machine.execEmptyOrShort payload s
  | .codeA => Sys2Proof.Machine.execCodeA s
  | .codeC => Sys2Proof.Machine.execCodeC s
  | .codeE => Sys2Proof.Machine.execCodeE s
  | .codeN => Sys2Proof.Machine.execCodeN s
  | .imageHeader paragraphs sectorSize => Sys2Proof.Machine.execImageHeader paragraphs sectorSize s
  | .statusPayload flags byte1 reserved => Sys2Proof.Machine.execStatusPayload flags byte1 reserved s
  | .dirEntryStruct r => Sys2Proof.Machine.execDirEntryStruct r s
  | .vtocStruct v => Sys2Proof.Machine.execVtocStruct v s
  | .vtoc2Struct v => Sys2Proof.Machine.execVtoc2Struct v s
  | .chainTail t => Sys2Proof.Machine.execChainTail t s
  | .rxByte b now => Sys2Proof.Machine.execRxByte b now s
  | .feReset => Sys2Proof.Machine.execFeReset s
  | .sendCode c => Sys2Proof.Machine.execSendCode c s
  | .sendPayloadA p => Sys2Proof.Machine.execSendPayloadA p s
  | .sendPayloadB p => Sys2Proof.Machine.execSendPayloadB p s
  | .dispatch p now => Sys2Proof.Machine.execDispatch p now s
  | .decodeCommand p now => Sys2Proof.Machine.execDecodeCommand p now s
  | .resolveDrive sel => Sys2Proof.Machine.execResolveDrive sel s
  | .replyError r => Sys2Proof.Machine.execReplyError r s
  | .fireDeferred now => Sys2Proof.Machine.execFireDeferred now s
  | .sector d n => Sys2Proof.Machine.execSector d n s
  | .writeSector d n data => Sys2Proof.Machine.execWriteSector d n data s
  | .imageSize d => Sys2Proof.Machine.execImageSize d s
  | .numSectors d => Sys2Proof.Machine.execNumSectors d s
  | .decodeImage file => Sys2Proof.Machine.execDecodeImage file s
  | .encodeImage img => Sys2Proof.Machine.execEncodeImage img s
  | .createEmpty => Sys2Proof.Machine.execCreateEmpty s
  | .envSector d n => Sys2Proof.Machine.execEnvSector d n s
  | .envWriteSector d n data => Sys2Proof.Machine.execEnvWriteSector d n data s
  | .openTransport => Sys2Proof.Machine.execOpenTransport s
  | .closeTransport => Sys2Proof.Machine.execCloseTransport s
  | .newImage => Sys2Proof.Machine.execNewImage s
  | .loadImage file => Sys2Proof.Machine.execLoadImage file s
  | .saveImage d => Sys2Proof.Machine.execSaveImage d s
  | .destroyImage d => Sys2Proof.Machine.execDestroyImage d s
  | .setLock d v => Sys2Proof.Machine.execSetLock d v s
  | .mount d slot => Sys2Proof.Machine.execMount d slot s
  | .unmount d => Sys2Proof.Machine.execUnmount d s
  | .checksum bytes => Sys2Proof.Machine.execChecksum bytes s
  | .memRead d n off len => Sys2Proof.Machine.execMemRead d n off len s
  | .memWrite d n data => Sys2Proof.Machine.execMemWrite d n data s
  | .len d n => Sys2Proof.Machine.execLen d n s
  | .isDos2 d => Sys2Proof.Machine.execIsDos2 d s
  | .vtocVersion d => Sys2Proof.Machine.execVtocVersion d s
  | .vtocFreeCount d => Sys2Proof.Machine.execVtocFreeCount d s
  | .hasVtoc2 d => Sys2Proof.Machine.execHasVtoc2 d s
  | .vtoc2FreeCount d => Sys2Proof.Machine.execVtoc2FreeCount d s
  | .sectorIsFree d n => Sys2Proof.Machine.execSectorIsFree d n s
  | .freeSectorList d => Sys2Proof.Machine.execFreeSectorList d s
  | .bitmapFreeCount d => Sys2Proof.Machine.execBitmapFreeCount d s
  | .dirEntry d k => Sys2Proof.Machine.execDirEntry d k s
  | .entryKind e => Sys2Proof.Machine.execEntryKind e s
  | .directory d => Sys2Proof.Machine.execDirectory d s
  | .entryName e => Sys2Proof.Machine.execEntryName e s
  | .tail d n => Sys2Proof.Machine.execTail d n s
  | .fileContents d start fileNo => Sys2Proof.Machine.execFileContents d start fileNo s

end Sys2Proof.Machine
end

