-- ==== Sys2Proof/Machine/Fetch.lean ====
section
/-! DEFINITION. Where the next instruction comes from: the head of the pending inputs (log 3, 25, 26). -/

namespace Sys2Proof.Machine

/-- What stands next. -/
inductive Fetched where
  /-- No event is pending. -/
  | idle
  /-- Instruction `i` is to run in state `s`, the event taken off the pending inputs. -/
  | run (i : Instr) (s : State)
  /-- The pending bytes are no item of their format. -/
  | bad (e : DecodeError)

/-- The pending inputs once an encoded item has been read and `rest` bytes stand after it. -/
def afterItem (f : Format) (now : Time) (rest : List Byte) (later : List Input) : List Input :=
  if rest = [] then later else .encoded f now rest :: later

/-- Take the next instruction off the pending inputs. -/
def fetch (s : State) : Fetched :=
  match s.inputs with
  | [] => .idle
  | .call i :: later => .run i { s with inputs := later }
  | .encoded f now bs :: later =>
    match decode f now bs with
    | .ok (i, rest) => .run i { s with inputs := afterItem f now rest later }
    | .error e => .bad e

/-- The state with an encoded item pending before everything else. -/
def State.pending (s : State) (f : Format) (now : Time) (bs : List Byte) : State :=
  { s with inputs := .encoded f now bs :: s.inputs }

end Sys2Proof.Machine
end

