-- ==== Sys2Proof/Machine/Step.lean ====
section
/-! DEFINITION. One step: the next pending event, decoded if it is encoded, runs to its end (spec 20 R76; 60 R303). -/

namespace Sys2Proof.Machine

/-- With nothing pending the block waits and nothing changes (log 3). -/
def step (s : State) : Host.Outcome State Fault Refusal :=
  match fetch s with
  | .idle => .next s
  | .run i t => if i.wellFormed then exec i t else .refused .illFormed
  | .bad e => .refused (.undecodable e)

/-- The state with a table word's item as the next event (log 3, 25). -/
def State.withFetchWord (s : State) (nbits w : Nat) : State :=
  s.pending (tableItem nbits w).1 0 (tableItem nbits w).2

end Sys2Proof.Machine
end

