-- ==== Sys2Proof/Safety.lean ====
section
/-! DEFINITION. What a reachable state looks like, and what a reply may be, in the terms the statements use. -/

namespace Sys2Proof.Machine

/-- Every image is well-formed: its memory canonical and inside its sectors (log 9). -/
def State.imagesWf (s : State) : Bool := s.disks.all fun e => e.2.wf

/-- Identities rise strictly and lie below the next one (10 R31). -/
def State.idsInOrder (s : State) : Bool :=
  decide (s.disks.Pairwise fun a b => a.1 < b.1) && s.disks.all fun e => decide (e.1 < s.nextDisk)

/-- Every mounted identity is live (10 R30). -/
def State.slotsLive (s : State) : Bool :=
  (List.range 8).all fun k =>
    match s.dpSlot.get k with
    | none => true
    | some d => (s.image d).isSome

/-- No identity is in two slots (10 R30). -/
def State.slotsOnce (s : State) : Bool :=
  (List.range 8).all fun j => (List.range 8).all fun k =>
    j == k || s.dpSlot.get j == none || s.dpSlot.get j != s.dpSlot.get k

/-- While accumulating, `FE.remaining = FE.N + 1 - |FE.buf|` and at least one byte is to come (10 R24). -/
def State.frameCounted (s : State) : Bool :=
  s.fePhase == .awaitLen ||
    (decide (s.feRemaining.toNat + s.feBuf.length = s.feN.toNat + 1) && decide (1 ≤ s.feRemaining.toNat))

/-- Only a complete code is ever scheduled (10 R33). -/
def State.deferredComplete (s : State) : Bool := s.dpDeferred.all fun e => e.bytes == [0x43]

/-- The invariant of the block: what every run from reset keeps. -/
def State.inv (s : State) : Bool :=
  s.imagesWf && s.idsInOrder && s.slotsLive && s.slotsOnce && s.frameCounted && s.deferredComplete

/-- The bursts the block may send in variant `v`: `A`, `C`, `E`, or a data reply of 4 or 32 bytes (30 R95); never `N`
(42 R188). -/
def legalBurst (v : Variant) (bs : List Byte) : Prop :=
  bs = [0x41] ∨ bs = [0x43] ∨ bs = [0x45] ∨
    ∃ p : List Byte, (p.length = 4 ∨ p.length = 32) ∧ bs = replyFrame v p

/-- What no operation but a creation, a destruction or `SetLock` changes of an image (10 R37, R39). -/
def imageShape (img : Image) : Nat × SectorSize × Bool := (img.count, img.sectorSize, img.lock)

/-- A command's drive: selector `sel` names a slot that holds the live disk `d` with image `img` (42 R172). -/
def State.drive (s : State) (sel : Byte) (d : DiskId) (img : Image) : Prop :=
  0x31 ≤ sel.toNat ∧ sel.toNat ≤ 0x38 ∧ s.dpSlot.get (sel.toNat - 0x31) = some d ∧ s.image d = some img

/-- Where sector `n` begins in the persisted file (20 R73). -/
def fileOffset (size : Nat) (n : Nat) : Nat :=
  if n ≤ 3 then 16 + 128 * (n - 1) else 16 + 384 + size * (n - 4)

/-- Sector `n` may stand in the chain of file `fileNo` (44 R254). -/
def inChain (img : Image) (fileNo n : Nat) : Prop :=
  1 ≤ n ∧ n ≤ img.count ∧ (img.tailAt n).fileNo.toNat = fileNo ∧ (img.tailAt n).dataLen.toNat ≤ img.len n - 3

/-- The sectors of a file's chain in order: each links to the next, the last links to 0 (44 R254; 30 R116). -/
def isChain (img : Image) (fileNo : Nat) : List Nat → Prop
  | [] => False
  | [n] => inChain img fileNo n ∧ (img.tailAt n).next = 0
  | n :: m :: rest =>
    inChain img fileNo n ∧ (img.tailAt n).next ≠ 0 ∧ (img.tailAt n).next.toNat = m ∧
      isChain img fileNo (m :: rest)

/-- The sectors `visited` may each stand in the chain of file `fileNo` and each links to the next, from the start to
`cur`, which has not been looked at (44 R254). -/
def leadsTo (img : Image) (fileNo : Nat) : Nat → List Nat → Nat → Prop
  | start, [], cur => cur = start
  | start, n :: rest, cur =>
    n = start ∧ inChain img fileNo n ∧ (img.tailAt n).next ≠ 0 ∧
      leadsTo img fileNo (img.tailAt n).next.toNat rest cur

/-- The payload bytes a chain holds (44 R254). -/
def chainBytes (img : Image) (chain : List Nat) : List Byte :=
  chain.flatMap fun n => (img.sector n).take (img.tailAt n).dataLen.toNat

/-- How many bytes the item at the head of `bs` takes: by its length byte, or the fixed size of its layout; a variant B
reply and a payload take all there are (30 R90 to R116). -/
def itemLength (f : Format) (bs : List Byte) : Nat :=
  match f with
  | .line => 1
  | .frame => (bs.headD 0).toNat + 2
  | .dataFrame => (bs.headD 0).toNat + 2
  | .replyA => (bs.headD 0).toNat + 2
  | .replyB => max 1 bs.length
  | .code => 1
  | .command => bs.length
  | .data => bs.length
  | .header => 16
  | .status => 4
  | .dirEntry => 16
  | .vtoc => 100
  | .vtoc2 => 124
  | .tail => 3

/-- How many bytes an encoding of each format may have (30 R90 to R116). -/
def lengthFits (f : Format) (n : Nat) : Bool :=
  match f with
  | .line => n == 1
  | .frame => decide (2 ≤ n) && decide (n ≤ 257)
  | .dataFrame => n == 130
  | .replyA => decide (2 ≤ n) && decide (n ≤ 257)
  | .replyB => decide (2 ≤ n) && decide (n ≤ 257)
  | .code => n == 1
  | .command => decide (n ≤ 5)
  | .data => decide (n ≤ 255)
  | .header => n == 16
  | .status => n == 4
  | .dirEntry => n == 16
  | .vtoc => n == 100
  | .vtoc2 => n == 124
  | .tail => n == 3

end Sys2Proof.Machine
end

