-- ==== Sys2Proof/Certificates/Slice0/Obligations.lean ====
section
/-! DEFINITION. The statements about the block, for the provers. Each docstring names the rules it formalises and the
decisions of 92 or the log entries it rests on. `ret`, `draws` and `inputs` are the model's own fields (log 3, 4, 5). -/

open Sys2Proof Sys2Proof.Machine

/-! ## Encoding -/

/-- Decoding what the encoder writes gives the instruction back, whole, for every row that has an encoding and every
operand its encoding admits (30 R90 to R116). -/
def Obligations.DecodeOfEncodeIsIdentity : Prop :=
  ∀ (i : Instr) (f : Format) (bs : List Byte), i.wellFormed = true → encode i = some (f, bs) →
    decode f i.stamp bs = .ok (i, [])

/-- Words written out from the spec's encodings (95 sections 2 to 6) decode to what they stand for. -/
def Obligations.SpecWordsDecode : Prop :=
  decode .command 0 [0x53, 0x31] = .ok (.cmdS 0x31, []) ∧
  decode .command 0 [0x52, 0x31, 0xD0, 0x02, 0xFF] = .ok (.cmdRProbe 0x31 720, []) ∧
  decode .command 0 [0x52, 0x31, 0x01, 0x00, 0x61] = .ok (.cmdRChunk 0x31 1 0x61, []) ∧
  decode .command 0 [0x57, 0x31, 0xD1, 0x02] = .ok (.cmdW 0x31 721, []) ∧
  decode .command 0 [0x50, 0x32, 0xD0, 0x02] = .ok (.cmdP 0x32 720, []) ∧
  decode .command 0 [0x21, 0x31] = .ok (.other 0x21, []) ∧
  decode .command 0 [0x57, 0x31, 0x01] = .ok (.emptyOrShort [0x57, 0x31, 0x01], []) ∧
  decode .frame 7 [0x02, 0x53, 0x31, 0x84] = .ok (.frameIn [0x53, 0x31] 0x84 7, []) ∧
  decode .replyA 0 [0x04, 0x10, 0x00, 0x05, 0x00, 0x15] = .ok (.replyDataA [0x10, 0x00, 0x05, 0x00], []) ∧
  decode .replyB 0 [0x43, 0x10, 0x00, 0x05, 0x00, 0x15] = .ok (.replyDataB [0x10, 0x00, 0x05, 0x00], []) ∧
  decode .code 0 [0x45] = .ok (.codeE, []) ∧
  decode .status 0 [0x98, 0x00, 0x05, 0x00] = .ok (.statusPayload 0x98 0x00 0x00, []) ∧
  decode .tail 0 [0x0D, 0x2C, 0x32] = .ok (.chainTail ⟨3, 300, 50⟩, [])

/-- What is decoded lies in its operand domain, and what follows it is the bytes after the item, whose length its format
gives; too few bytes, a byte that is no reply code, a bad checksum or prefix of a reply, a data frame of another length
than 128, a payload above 255 bytes, a bad magic and a timeout byte other than 5 are refused, each by its name (30 R90,
R92, R93, R94, R99, R100, R110; the reading by format is log 25). -/
def Obligations.DecodedInstructionIsWellFormed : Prop :=
  ∀ now : Time,
    (∀ (f : Format) (bs : List Byte),
      (∀ (i : Instr) (rest : List Byte), decode f now bs = .ok (i, rest) →
        i.wellFormed = true ∧ itemLength f bs ≤ bs.length ∧ rest = bs.drop (itemLength f bs)) ∧
      (bs.length < itemLength f bs → decode f now bs = .error .tooFewBytes)) ∧
    (∀ (b : Byte) (more : List Byte), b ≠ 0x41 → b ≠ 0x43 → b ≠ 0x45 → b ≠ 0x4E →
      decode .code now (b :: more) = .error .notAReplyCode) ∧
    (∀ (p more : List Byte) (cs : Byte), p.length ≤ 255 →
      (cs ≠ checksum p →
        decode .replyA now (BitVec.ofNat 8 p.length :: (p ++ cs :: more)) = .error .badReplyChecksum ∧
        decode .replyB now (0x43 :: (p ++ [cs])) = .error .badReplyChecksum) ∧
      (p.length ≠ 128 →
        decode .dataFrame now (BitVec.ofNat 8 p.length :: (p ++ cs :: more)) = .error .notADataFrame)) ∧
    (∀ (c : Byte) (more : List Byte), c ≠ 0x43 → decode .replyB now (c :: more) = .error .noCompletePrefix) ∧
    decode .replyB now [0x43] = .error .tooFewBytes ∧
    (∀ bs : List Byte,
      (255 < bs.length → decode .command now bs = .error .payloadTooLong ∧
        decode .data now bs = .error .payloadTooLong) ∧
      (256 < bs.length → decode .replyB now (0x43 :: bs) = .error .payloadTooLong) ∧
      (16 ≤ bs.length → bs.take 2 ≠ [0x96, 0x02] → decode .header now bs = .error .badMagic)) ∧
    ∀ (b0 b1 b2 b3 : Byte) (more : List Byte), b2 ≠ 5 →
      decode .status now (b0 :: b1 :: b2 :: b3 :: more) = .error .badTimeoutByte

/-- The command code map: byte 0 on all its 8 bits, then the operands little-endian; a surplus is ignored; a payload
too short for its command, or empty, gets one `E` and changes nothing (30 R96 to R98, R102; 42 R171; decisions D6,
D7). -/
def Obligations.CommandCodeMap : Prop :=
  decodeCommand [] = .emptyOrShort [] ∧
  (∀ (cmd : Byte) (args : List Byte), cmd ≠ 0x53 → cmd ≠ 0x52 → cmd ≠ 0x57 → cmd ≠ 0x50 →
    decodeCommand (cmd :: args) = .other cmd) ∧
  (∀ (sel : Byte) (more : List Byte), decodeCommand (0x53 :: sel :: more) = .cmdS sel) ∧
  (∀ (sel lo hi off : Byte) (more : List Byte), decodeCommand (0x52 :: sel :: lo :: hi :: off :: more) =
    if off = 0xFF then .cmdRProbe sel (BitVec.ofNat 16 (lo.toNat + 256 * hi.toNat))
    else .cmdRChunk sel (BitVec.ofNat 16 (lo.toNat + 256 * hi.toNat)) off) ∧
  (∀ (sel lo hi : Byte) (more : List Byte),
    decodeCommand (0x57 :: sel :: lo :: hi :: more) = .cmdW sel (BitVec.ofNat 16 (lo.toNat + 256 * hi.toNat)) ∧
    decodeCommand (0x50 :: sel :: lo :: hi :: more) = .cmdP sel (BitVec.ofNat 16 (lo.toNat + 256 * hi.toNat))) ∧
  (∀ args : List Byte, (args.length < 1 → decodeCommand (0x53 :: args) = .emptyOrShort (0x53 :: args)) ∧
    (args.length < 4 → decodeCommand (0x52 :: args) = .emptyOrShort (0x52 :: args)) ∧
    (args.length < 3 → decodeCommand (0x57 :: args) = .emptyOrShort (0x57 :: args) ∧
      decodeCommand (0x50 :: args) = .emptyOrShort (0x50 :: args))) ∧
  (∀ (s : State) (payload : List Byte), exec (.emptyOrShort payload) s = .next { s with
    outTx := s.outTx ++ [[0x45]], outLog := s.outLog ++ [.shortFrame], ret := .done })

/-! ## The step, reset, the invariant -/

/-- A step takes the next pending event and runs its instruction; an encoded item is decoded first and what follows it
stays pending; with nothing pending the block waits; bytes that are no item of their format, and operands outside their
domain, are refused by name (20 R76; log 3, 25, 26). -/
def Obligations.StepRunsTheNextInstruction : Prop :=
  ∀ s : State,
    (∀ (i : Instr) (later : List Input), s.inputs = .call i :: later →
      (i.wellFormed = true → step s = exec i { s with inputs := later }) ∧
      (i.wellFormed = false → step s = .refused .illFormed)) ∧
    (∀ (f : Format) (now : Time) (bs : List Byte) (later : List Input), s.inputs = .encoded f now bs :: later →
      (∀ i rest, decode f now bs = .ok (i, rest) → i.wellFormed = true →
        step s = exec i { s with inputs := if rest = [] then later else .encoded f now rest :: later }) ∧
      (∀ e, decode f now bs = .error e → step s = .refused (.undecodable e))) ∧
    (s.inputs = [] → step s = .next s)

/-- The reset values of 10 R47 (the spec's decision D23). The values the model chose (log 1 to 5, 7, 10, 21) are left
out. -/
def Obligations.ResetValues : Prop :=
  State.reset.fePhase = .awaitLen ∧ State.reset.feBuf = [] ∧ State.reset.feLastRx = none ∧
  (∀ k, State.reset.dpSlot.get k = none) ∧ State.reset.dpWp = none ∧ State.reset.dpDeferred = [] ∧
  State.reset.trOpen = false ∧ (∀ d, State.reset.image d = none) ∧
  State.reset.outTx = [] ∧ State.reset.outNote = [] ∧ State.reset.outLog = []

/-- The invariant holds after reset. -/
def Obligations.ResetMeetsInvariant : Prop := State.reset.inv = true

/-- Every step keeps the invariant: memories canonical and inside their sectors (log 9), identities in order (log 10),
slots live and disjoint (10 R30), the frame count (R24), only `C` scheduled (R33). -/
def Obligations.StepKeepsInvariant : Prop :=
  ∀ s t : State, s.inv = true → step s = .next t → t.inv = true

/-! ## The checksum unit -/

/-- `Checksum` completes with the closed form of 40 R133 (seed 0, decision D1); the accumulator ends at or below 255
(R132), where it is kept when it is dead (log 21); the order of the bytes does not matter (R134; 90 C1). -/
def Obligations.ChecksumHasClosedForm : Prop :=
  ∀ (bytes : List Byte) (s : State), ∃ v : Byte,
    exec (.checksum bytes) s = .next { s with ckAcc := v.setWidth 16, ret := .byte v } ∧
    v.toNat = (let total := (bytes.map BitVec.toNat).sum
      if total = 0 then 0 else (total - 1) % 255 + 1) ∧
    ∀ other : List Byte, bytes.Perm other → exec (.checksum other) s = exec (.checksum bytes) s

/-! ## The frame engine -/

/-- A byte in awaiting-length is a length: the counter is `N + 1`, the buffer is empty, the engine accumulates (41
R142; decision D2). In a block built with `LEN255_DEGENERATE` the byte 0xFF is dropped and the three frame registers
hold free values (log 16). Everything else is unchanged. -/
def Obligations.LengthByteStartsAFrame : Prop :=
  ∀ (s : State) (b : Byte) (now : Time), s.trOpen = true → s.fePhase = .awaitLen →
    ((b ≠ 0xFF ∨ s.params.len255Degenerate = false) →
      exec (.rxByte b now) s = .next { s with
        fePhase := .accum, feN := b, feRemaining := BitVec.ofNat 9 (b.toNat + 1), feBuf := [],
        feLastRx := some now, ret := .done }) ∧
    (b = 0xFF → s.params.len255Degenerate = true → ∃ n m buf, (buf = [] ∨ buf = s.feBuf) ∧
      exec (.rxByte b now) s = .next { s with
        feN := n, feRemaining := m, feBuf := buf, feLastRx := some now, draws := s.draws + 1, ret := .done })

/-- A byte in the middle of a frame, no more than `T_IDLE` after the one before, is appended and counted (41 R143;
decision D3). Everything else is unchanged. -/
def Obligations.ByteInFrameIsAppended : Prop :=
  ∀ (s : State) (b : Byte) (now : Time), s.trOpen = true → s.fePhase = .accum → s.feRemaining ≠ 1 →
    (∀ last, s.feLastRx = some last → now ≤ last + s.params.tIdle) →
    exec (.rxByte b now) s = .next { s with
      feBuf := s.feBuf ++ [b], feRemaining := s.feRemaining - 1, feLastRx := some now, ret := .done }

/-- The last byte of a frame, no more than `T_IDLE` after the one before: it is the checksum of the bytes before it;
the engine is back in awaiting-length; on a match the payload goes to the dispatcher, on a mismatch there is a log
entry and nothing else (41 R144, R146). What the dead accumulator holds is left open. -/
def Obligations.LastByteEndsTheFrame : Prop :=
  ∀ (s : State) (b : Byte) (now : Time), s.trOpen = true → s.fePhase = .accum → s.feRemaining = 1 →
    s.feBuf.length = s.feN.toNat → (∀ last, s.feLastRx = some last → now ≤ last + s.params.tIdle) →
    ∃ (acc : BitVec 16) (u : State), u = { s with
        fePhase := .awaitLen, feRemaining := 0, feBuf := s.feBuf ++ [b], feLastRx := some now, ckAcc := acc } ∧
      (b = checksum s.feBuf → exec (.rxByte b now) s = exec (.dispatch s.feBuf now) u) ∧
      (b ≠ checksum s.feBuf → exec (.rxByte b now) s = .next { u with
        outLog := s.outLog ++ [.checksumMismatch], ret := .done })

/-- After a gap of more than `T_IDLE` what a byte does does not depend on the partial frame; after a shorter gap, the
bound included, the time of the previous byte has no effect (41 R141, R149; decision D3). -/
def Obligations.IdleGapForgetsThePartialFrame : Prop :=
  ∀ (s : State) (b : Byte) (now last : Time), s.feLastRx = some last →
    (last + s.params.tIdle < now → s.trOpen = true → ∀ (ph : Phase) (n : Byte) (m : BitVec 9) (buf : List Byte),
      exec (.rxByte b now) s =
        exec (.rxByte b now) { s with fePhase := ph, feN := n, feRemaining := m, feBuf := buf }) ∧
    (now ≤ last + s.params.tIdle → s.trOpen = true →
      exec (.rxByte b now) s = exec (.rxByte b now) { s with feLastRx := none })

/-- Received byte by byte, a frame whose checksum matches is dispatched once, whole, from awaiting-length: the bytes
do together what the dispatcher does with the payload (41 R144, R145; log 12, 16). What the dead accumulator holds in
between is left open. -/
def Obligations.GoodFrameIsDispatchedWhole : Prop :=
  ∀ (s : State) (payload : List Byte) (now : Time), s.trOpen = true → s.fePhase = .awaitLen →
    s.slotsLive = true → payload.length ≤ 255 → (payload.length ≠ 255 ∨ s.params.len255Degenerate = false) →
    ∃ (acc : BitVec 16) (t : State), exec (.frameIn payload (checksum payload) now) s = .next t ∧
      exec (.dispatch payload now) { s with
        feN := BitVec.ofNat 8 payload.length, feRemaining := 0, feBuf := payload ++ [checksum payload],
        feLastRx := some now, ckAcc := acc, ret := .done } = .next t ∧
      (payload.length = 128 → exec (.writeDataFrame payload (checksum payload) now) s = .next t)

/-- A frame whose checksum does not match is dropped: no reply, no dispatch, a log entry, and the engine awaits a
length (41 R146; the rows are the frame's bytes received, log 12). What the dead accumulator holds is left open. -/
def Obligations.BadChecksumDropsTheFrame : Prop :=
  ∀ (s : State) (payload : List Byte) (cs : Byte) (now : Time), s.trOpen = true → s.fePhase = .awaitLen →
    payload.length ≤ 255 → (payload.length ≠ 255 ∨ s.params.len255Degenerate = false) →
    cs ≠ checksum payload →
    ∃ (acc : BitVec 16) (t : State), t = { s with
        feN := BitVec.ofNat 8 payload.length, feRemaining := 0, feBuf := payload ++ [cs],
        feLastRx := some now, ckAcc := acc,
        outLog := s.outLog ++ [.checksumMismatch], ret := .done } ∧
      exec (.frameIn payload cs now) s = .next t ∧
      (payload.length = 128 → exec (.writeDataFrame payload cs now) s = .next t)

/-- No byte stops the engine, whatever it is, and no step but `Close` ends the session (41 R148; 60 R308). -/
def Obligations.OnlyCloseEndsTheSession : Prop :=
  (∀ (s : State) (b : Byte) (now : Time), s.inv = true →
    ∃ t, exec (.rxByte b now) s = .next t ∧ t.trOpen = s.trOpen) ∧
  (∀ (i : Instr) (s t : State), exec i s = .next t → s.trOpen = true → i ≠ .closeTransport → t.trOpen = true)

/-- The mount table, the set of images, and the shape and lock of an image change only by the environment's own
operations, `DestroyImage` changing the table as `Unmount` does; the run's constants by none (45 R286, R290; 10 R34,
R39; 60 R310). That the constants stand in the state, and the counter of identities, are the model's choice (log 1,
10). -/
def Obligations.OnlyTheEnvironmentChangesMountsImagesAndLocks : Prop :=
  ∀ (i : Instr) (s t : State), exec i s = .next t →
    t.params = s.params ∧
    ((∀ d k, i ≠ .mount d k) → (∀ d, i ≠ .unmount d) → (∀ d, i ≠ .destroyImage d) → t.dpSlot = s.dpSlot) ∧
    (i ≠ .newImage → (∀ file, i ≠ .loadImage file) → (∀ d, i ≠ .destroyImage d) →
      t.nextDisk = s.nextDisk ∧ ∀ d, (t.image d).isSome = (s.image d).isSome) ∧
    (i ≠ .newImage → (∀ file, i ≠ .loadImage file) → (∀ d, i ≠ .destroyImage d) → (∀ d v, i ≠ .setLock d v) →
      ∀ d, (t.image d).map imageShape = (s.image d).map imageShape) ∧
    (∀ d u, i = .destroyImage d → exec (.unmount d) s = .next u → t.dpSlot = u.dpSlot)

/-- A received byte makes at most one burst, of a legal shape, never `N`, and none in awaiting-length; the
deferred-reply agent sends nothing but `C` (30 R95; 42 R188, R192; decision D12). -/
def Obligations.BytesAreAnsweredByLegalReplies : Prop :=
  (∀ (s t : State) (b : Byte) (now : Time), exec (.rxByte b now) s = .next t →
    t.outTx = s.outTx ∨ (s.fePhase = .accum ∧
      ∃ bs, t.outTx = s.outTx ++ [bs] ∧ legalBurst s.params.variant bs ∧ bs ≠ [0x4E])) ∧
  (∀ (s t : State) (now : Time), s.inv = true → exec (.fireDeferred now) s = .next t →
    t.outTx = s.outTx ∨ t.outTx = s.outTx ++ [[0x43]])

/-- No byte changes an image that is in no slot, and no byte changes a locked image (20 R64, R74; 60 R310). -/
def Obligations.BytesChangeOnlyMountedUnlockedImages : Prop :=
  ∀ (s t : State) (b : Byte) (now : Time) (d : DiskId), exec (.rxByte b now) s = .next t →
    ((∀ k, s.dpSlot.get k ≠ some d) → t.image d = s.image d) ∧
    (∀ img, s.image d = some img → img.lock = true → t.image d = s.image d)

/-! ## The dispatcher -/

/-- A good frame completes: as write data when the dispatcher is armed, as the decoded command when it is not; write
data that was not announced is decoded as a command (42 R170, R171, R185 item 4; decisions D4, D5; log 22). -/
def Obligations.GoodFrameIsDataWhenArmed : Prop :=
  ∀ (s : State) (p : List Byte) (now : Time), s.slotsLive = true →
    ∃ t u, exec (.dispatch p now) s = .next t ∧ exec (.writeData p now) s = .next t ∧
      exec (.decodeCommand p now) s = .next u ∧ exec (decodeCommand p).toInstr s = .next u ∧
      (s.dpWp = none → t = u)

/-- `S` on a loaded drive sends the four status bytes, and changes nothing else (42 R174; 30 R100; decision D10). What
the dead accumulator holds is left open. -/
def Obligations.StatusReply : Prop :=
  ∀ (s : State) (sel : Byte) (d : DiskId) (img : Image), s.drive sel d img →
    ∃ (flags : Byte) (acc : BitVec 16),
      flags = (if 1024 ≤ img.count then s.params.statusEdMask else 0) |||
        (if s.params.statusActive = true then s.params.statusActiveMask else 0) |||
        (if img.lock = true then s.params.statusWpMask else 0) ∧
      exec (.cmdS sel) s = .next { s with
        outTx := s.outTx ++
          [replyFrame s.params.variant [flags, s.params.statusByte1, 5, s.params.statusReserved]],
        ckAcc := acc, ret := .done }

/-- `R` with an offset up to 96 sends the 32 bytes of the 128-byte sector from there, at any alignment, locked or not,
and changes nothing else (42 R176, R178; decision D8). What the dead accumulator holds is left open. -/
def Obligations.ReadChunkReply : Prop :=
  ∀ (s : State) (sel : Byte) (sec : BitVec 16) (off : Byte) (d : DiskId) (img : Image), s.drive sel d img →
    1 ≤ sec.toNat → sec.toNat ≤ img.count → (sec.toNat ≤ 3 ∨ img.sectorSize = .s128) → off.toNat ≤ 96 →
    ∃ (p : List Byte) (acc : BitVec 16), p = ((img.sector sec.toNat).drop off.toNat).take 32 ∧ p.length = 32 ∧
      exec (.cmdRChunk sel sec off) s = .next { s with
        outTx := s.outTx ++ [replyFrame s.params.variant p], ckAcc := acc, ret := .done }

/-- The probe is answered by the single byte `A` when the sector exists and is exactly 128 bytes long, and otherwise by
`E` with a log entry; no data is sent and nothing else changes (42 R177). -/
def Obligations.ProbeReply : Prop :=
  ∀ (s : State) (sel : Byte) (sec : BitVec 16), s.slotsLive = true →
    ((∃ d img, s.drive sel d img ∧ 1 ≤ sec.toNat ∧ sec.toNat ≤ img.count ∧
        (sec.toNat ≤ 3 ∨ img.sectorSize = .s128)) →
      exec (.cmdRProbe sel sec) s = .next { s with outTx := s.outTx ++ [[0x41]], ret := .done }) ∧
    ((¬ ∃ d img, s.drive sel d img ∧ 1 ≤ sec.toNat ∧ sec.toNat ≤ img.count ∧
        (sec.toNat ≤ 3 ∨ img.sectorSize = .s128)) →
      ∃ r, exec (.cmdRProbe sel sec) s = .next { s with
        outTx := s.outTx ++ [[0x45]], outLog := s.outLog ++ [r], ret := .done })

/-- Where `S` and `R` are turned away, with which reason, in the order of 60 R305: one `E`, one log entry, nothing else
(42 R172 to R176, R179; decisions D7, D8). -/
def Obligations.StatusAndReadErrors : Prop :=
  ∀ (s : State) (sel : Byte) (sec : BitVec 16) (off : Byte),
    let refusal (r : Reason) : Result :=
      .next { s with outTx := s.outTx ++ [[0x45]], outLog := s.outLog ++ [r], ret := .done }
    ((sel.toNat < 0x31 ∨ 0x38 < sel.toNat) →
      exec (.cmdS sel) s = refusal (.invalidDrive sel) ∧
      exec (.cmdRProbe sel sec) s = refusal (.invalidDrive sel) ∧
      exec (.cmdRChunk sel sec off) s = refusal (.invalidDrive sel)) ∧
    (0x31 ≤ sel.toNat → sel.toNat ≤ 0x38 → s.dpSlot.get (sel.toNat - 0x31) = none →
      exec (.cmdS sel) s = refusal (.driveEmpty (sel.toNat - 0x31)) ∧
      exec (.cmdRProbe sel sec) s = refusal (.driveEmpty (sel.toNat - 0x31)) ∧
      exec (.cmdRChunk sel sec off) s = refusal (.driveEmpty (sel.toNat - 0x31))) ∧
    (∀ d img, s.drive sel d img →
      (sec = 0 ∨ img.count < sec.toNat →
        exec (.cmdRProbe sel sec) s = refusal (.invalidSector sec.toNat) ∧
        exec (.cmdRChunk sel sec off) s = refusal (.invalidSector sec.toNat)) ∧
      (4 ≤ sec.toNat → sec.toNat ≤ img.count → img.sectorSize = .s256 →
        exec (.cmdRProbe sel sec) s = refusal (.sectorNot128 sec.toNat) ∧
        exec (.cmdRChunk sel sec off) s = refusal (.sectorNot128 sec.toNat)) ∧
      (1 ≤ sec.toNat → sec.toNat ≤ img.count → (sec.toNat ≤ 3 ∨ img.sectorSize = .s128) →
        97 ≤ off.toNat → off.toNat ≤ 254 → exec (.cmdRChunk sel sec off) s = refusal (.invalidOffset off)))

/-- A write command frame stores the selector and the sector number unchecked and sends nothing; `P` does what `W`
does (42 R182, R181). -/
def Obligations.WriteCommandArms : Prop :=
  (∀ (s : State) (sel : Byte) (sec : BitVec 16),
    exec (.cmdW sel sec) s = .next { s with dpWp := some ⟨sel, sec⟩, ret := .done } ∧
    exec (.cmdP sel sec) s = .next { s with dpWp := some ⟨sel, sec⟩, ret := .done }) ∧
  ∀ (s : State) (cmd sel lo hi : Byte) (more : List Byte) (now : Time), cmd = 0x57 ∨ cmd = 0x50 →
    exec (.decodeCommand (cmd :: sel :: lo :: hi :: more) now) s = .next { s with
      dpWp := some ⟨sel, BitVec.ofNat 16 (lo.toNat + 256 * hi.toNat)⟩, ret := .done }

/-- Write data that passes every check: the one sector is the data, every other byte of every image is as before; the
notification, `A` now, `C` scheduled; disarmed; nothing else (42 R183, R184; decisions D4, D14). -/
def Obligations.WriteDataIsCommitted : Prop :=
  ∀ (s : State) (wp : WritePending) (data : List Byte) (now : Time) (d : DiskId) (img : Image),
    s.dpWp = some wp → s.drive wp.sel d img → img.lock = false → 1 ≤ wp.sec.toNat → wp.sec.toNat ≤ img.count →
    (wp.sec.toNat ≤ 3 ∨ img.sectorSize = .s128) → data.length = 128 →
    ∃ t img', exec (.writeData data now) s = .next t ∧
      t = { s with
        dpWp := none, disks := replaceDisk s.disks d img', outNote := s.outNote ++ [.diskChanged d wp.sec.toNat],
        outTx := s.outTx ++ [[0x41]],
        dpDeferred := s.dpDeferred ++ [⟨now + s.params.tCompleteMin, [0x43]⟩], ret := .done } ∧
      t.image d = some img' ∧ (∀ e, e ≠ d → t.image e = s.image e) ∧
      imageShape img' = imageShape img ∧ img'.sector wp.sec.toNat = data ∧
      ∀ a, (a < img.base wp.sec.toNat ∨ img.base wp.sec.toNat + 128 ≤ a) →
        Memory.read img'.mem a = Memory.read img.mem a

/-- Write data that fails a check, in the order of 60 R305: one `E`, one log entry, disarmed, and nothing else: no byte
of any image (42 R183; decisions D7, D9). -/
def Obligations.RejectedWriteDataChangesNothing : Prop :=
  ∀ (s : State) (sel : Byte) (sec : BitVec 16) (data : List Byte) (now : Time), s.dpWp = some ⟨sel, sec⟩ →
    let rejected (r : Reason) : Result :=
      .next { s with dpWp := none, outTx := s.outTx ++ [[0x45]], outLog := s.outLog ++ [r], ret := .done }
    ((sel.toNat < 0x31 ∨ 0x38 < sel.toNat) → exec (.writeData data now) s = rejected (.invalidDrive sel)) ∧
    (0x31 ≤ sel.toNat → sel.toNat ≤ 0x38 → s.dpSlot.get (sel.toNat - 0x31) = none →
      exec (.writeData data now) s = rejected (.driveEmpty (sel.toNat - 0x31))) ∧
    (∀ d img, s.drive sel d img →
      (img.lock = true → exec (.writeData data now) s = rejected .diskLocked) ∧
      (img.lock = false →
        (sec = 0 ∨ img.count < sec.toNat → exec (.writeData data now) s = rejected (.invalidSector sec.toNat)) ∧
        (4 ≤ sec.toNat → sec.toNat ≤ img.count → img.sectorSize = .s256 →
          exec (.writeData data now) s = rejected (.sectorNot128 sec.toNat)) ∧
        (1 ≤ sec.toNat → sec.toNat ≤ img.count → (sec.toNat ≤ 3 ∨ img.sectorSize = .s128) →
          data.length ≠ 128 → exec (.writeData data now) s = rejected (.badWriteLength data.length))))

/-- Every code other than the four gets one `E` and a log entry; no drive is looked at and no state changes (42
R186). -/
def Obligations.OtherCodesGetError : Prop :=
  ∀ (s : State) (cmd : Byte) (args : List Byte) (now : Time),
    cmd ≠ 0x53 → cmd ≠ 0x52 → cmd ≠ 0x57 → cmd ≠ 0x50 →
    ∃ t, t = { s with outTx := s.outTx ++ [[0x45]], outLog := s.outLog ++ [.unknownCommand cmd], ret := .done } ∧
      exec (.other cmd) s = .next t ∧ exec (.decodeCommand (cmd :: args) now) s = .next t

/-- The deferred-reply agent sends the first entry once it is due, and only then; it touches nothing else (42 R190;
decision D14; log 6). -/
def Obligations.DeferredReplyFiresWhenDue : Prop :=
  ∀ (s : State) (now : Time),
    (s.dpDeferred = [] → exec (.fireDeferred now) s = .next { s with ret := .notAdmitted }) ∧
    ∀ (e : Deferred) (rest : List Deferred), s.dpDeferred = e :: rest →
      (s.trOpen = true → e.due ≤ now →
        exec (.fireDeferred now) s =
          .next { s with dpDeferred := rest, outTx := s.outTx ++ [e.bytes], ret := .done }) ∧
      (s.trOpen = false ∨ now < e.due → exec (.fireDeferred now) s = .next { s with ret := .notAdmitted })

/-- What a write transaction wrote, an `R` of that sector sends as the next step (20 R76, R77 items 1 and 2). -/
def Obligations.WrittenSectorIsReadBack : Prop :=
  ∀ (s t : State) (wp : WritePending) (data : List Byte) (now : Time) (off : Byte),
    s.dpWp = some wp → exec (.writeData data now) s = .next t → t.outTx = s.outTx ++ [[0x41]] → off.toNat ≤ 96 →
    ∃ u p, exec (.cmdRChunk wp.sel wp.sec off) t = .next u ∧ p = (data.drop off.toNat).take 32 ∧ p.length = 32 ∧
      u.outTx = t.outTx ++ [replyFrame s.params.variant p]

/-! ## Replies and the engine's own operations -/

/-- `SendCode` sends one unframed byte, whatever the variant; `SendPayload` sends one burst: length, payload, checksum
under variant A; the complete code, payload, checksum under variant B (41 R150, R151, R152; 30 R92, R93). What the dead
accumulator holds is left open. -/
def Obligations.SendCodeAndSendPayload : Prop :=
  ∀ s : State,
    (∀ c : ReplyCode, exec (.sendCode c) s = .next { s with
      outTx := s.outTx ++ [[match c with | .A => 0x41 | .C => 0x43 | .E => 0x45 | .N => 0x4E]], ret := .done }) ∧
    ∀ p : List Byte, p.length ≤ 255 →
      ∃ acc : BitVec 16,
      let sent (bs : List Byte) : Result := .next { s with outTx := s.outTx ++ [bs], ckAcc := acc, ret := .done }
      (s.params.variant = .A →
        exec (.sendPayloadA p) s = sent ([BitVec.ofNat 8 p.length] ++ p ++ [checksum p])) ∧
      (s.params.variant = .B → exec (.sendPayloadB p) s = sent ([0x43] ++ p ++ [checksum p]))

/-- The outbound rows of the table are the act of sending them: a reply code, or a data reply of the block's variant
(30 R92 to R94; the reading is the model's, log 12). What the dead accumulator holds is left open. -/
def Obligations.ReplyRowsAreSent : Prop :=
  ∀ s : State,
    exec .codeA s = exec (.sendCode .A) s ∧ exec .codeC s = exec (.sendCode .C) s ∧
    exec .codeE s = exec (.sendCode .E) s ∧ exec .codeN s = exec (.sendCode .N) s ∧
    (∀ c : ReplyCode, exec (.sendCode c) s = .next { s with outTx := s.outTx ++ [[c.byte]], ret := .done }) ∧
    ∀ p : List Byte, p.length ≤ 255 →
      ∃ (acc : BitVec 16) (t : State), t = { s with
          outTx := s.outTx ++ [replyFrame s.params.variant p], ckAcc := acc, ret := .done } ∧
        (s.params.variant = .A → exec (.replyDataA p) s = .next t) ∧
        (s.params.variant = .B → exec (.replyDataB p) s = .next t)

/-- Where the model stops: a data reply of more than 255 bytes (41 R153) or of the other variant (log 13); `MemWrite`
outside its requirement (log 18); an operation or a command on an identity that is not in `DISKS` (log 14); the end of
a frame in a state no run reaches (log 15). -/
def Obligations.WhereOperationsStop : Prop :=
  ∀ s : State,
    (∀ p : List Byte,
      (s.params.variant = .A → 255 < p.length → exec (.sendPayloadA p) s = .refused .payloadTooLong ∧
        exec (.replyDataA p) s = .refused .payloadTooLong) ∧
      (s.params.variant = .B → 255 < p.length → exec (.sendPayloadB p) s = .refused .payloadTooLong ∧
        exec (.replyDataB p) s = .refused .payloadTooLong) ∧
      (s.params.variant = .B → exec (.sendPayloadA p) s = .refused .variantNotSelected ∧
        exec (.replyDataA p) s = .refused .variantNotSelected) ∧
      (s.params.variant = .A → exec (.sendPayloadB p) s = .refused .variantNotSelected ∧
        exec (.replyDataB p) s = .refused .variantNotSelected)) ∧
    (∀ (d : DiskId) (img : Image) (n : Nat) (data : List Byte), s.image d = some img →
      (n = 0 ∨ img.count < n ∨ data.length ≠ if n ≤ 3 then 128 else img.sectorSize.toNat) →
      exec (.memWrite d n data) s = .refused .memWriteRequires) ∧
    (∀ (d : DiskId) (n k l : Nat) (data : List Byte) (v : Bool), s.image d = none →
      ∀ i ∈ [Instr.sector d n, .writeSector d n data, .imageSize d, .numSectors d, .envSector d n,
        .envWriteSector d n data, .saveImage d, .setLock d v, .memRead d n k l, .memWrite d n data, .len d n,
        .isDos2 d, .vtocVersion d, .vtocFreeCount d, .hasVtoc2 d, .vtoc2FreeCount d, .sectorIsFree d n,
        .freeSectorList d, .bitmapFreeCount d, .dirEntry d n, .directory d, .tail d n, .fileContents d n k],
        exec i s = .fault (.noSuchDisk d)) ∧
    (∀ (sel : Byte) (sec : BitVec 16) (off : Byte) (d : DiskId) (data : List Byte) (now : Time),
      0x31 ≤ sel.toNat → sel.toNat ≤ 0x38 → s.dpSlot.get (sel.toNat - 0x31) = some d → s.image d = none →
      exec (.cmdS sel) s = .fault (.noSuchDisk d) ∧ exec (.cmdRChunk sel sec off) s = .fault (.noSuchDisk d) ∧
      exec (.cmdRProbe sel sec) s = .fault (.noSuchDisk d) ∧
      (s.dpWp = some ⟨sel, sec⟩ → exec (.writeData data now) s = .fault (.noSuchDisk d))) ∧
    (∀ (b : Byte) (now : Time), s.trOpen = true → s.fePhase = .accum → s.feRemaining = 1 →
      s.feBuf.length < s.feN.toNat → (∀ last, s.feLastRx = some last → now ≤ last + s.params.tIdle) →
      exec (.rxByte b now) s = .fault .frameBufferShort)

/-- A selector resolves to the disk in slot `sel - 0x31`; out of range it is `InvalidDrive`, on an empty slot
`DriveEmpty`; nothing is written (42 R172). -/
def Obligations.ResolveDriveReadsTheSlot : Prop :=
  ∀ (s : State) (sel : Byte),
    (∀ d, 0x31 ≤ sel.toNat → sel.toNat ≤ 0x38 → s.dpSlot.get (sel.toNat - 0x31) = some d →
      exec (.resolveDrive sel) s = .next { s with ret := .disk d }) ∧
    (0x31 ≤ sel.toNat → sel.toNat ≤ 0x38 → s.dpSlot.get (sel.toNat - 0x31) = none →
      exec (.resolveDrive sel) s = .next { s with ret := .error (.driveEmpty (sel.toNat - 0x31)) }) ∧
    ((sel.toNat < 0x31 ∨ 0x38 < sel.toNat) →
      exec (.resolveDrive sel) s = .next { s with ret := .error (.invalidDrive sel) })

/-- `ReplyError` logs the reason and sends one `E`; `FEReset` puts the frame engine back to awaiting-length with an
empty buffer; each changes nothing else (42 R173; 41 R147). That each runs by itself is the model's choice (log 32,
33). -/
def Obligations.ReplyErrorAndFrameReset : Prop :=
  ∀ (s : State) (r : Reason),
    exec (.replyError r) s = .next { s with
      outLog := s.outLog ++ [r], outTx := s.outTx ++ [[0x45]], ret := .done } ∧
    exec .feReset s = .next { s with fePhase := .awaitLen, feBuf := [], ret := .done }

/-! ## The disk image store -/

/-- `Sector` and `EnvSector` hand out a copy of the sector, locked or not, or none and a log entry (43 R211, R222). -/
def Obligations.SectorReadsACopy : Prop :=
  ∀ (s : State) (d : DiskId) (img : Image) (n : Nat), s.image d = some img →
    (1 ≤ n → n ≤ img.count → ∃ bs : List Byte,
      exec (.sector d n) s = .next { s with ret := .maybeBytes (some bs) } ∧
      exec (.envSector d n) s = .next { s with ret := .maybeBytes (some bs) } ∧
      bs.length = (if n ≤ 3 then 128 else img.sectorSize.toNat) ∧
      ∀ k, k < bs.length → bs[k]? = some (Memory.read img.mem (img.base n + k))) ∧
    ((n = 0 ∨ img.count < n) →
      exec (.sector d n) s = .next { s with
        outLog := s.outLog ++ [.invalidSectorNumber n], ret := .maybeBytes none } ∧
      exec (.envSector d n) s = .next { s with
        outLog := s.outLog ++ [.invalidSectorNumber n], ret := .maybeBytes none })

/-- A good sector write replaces the whole sector at once and no other byte of any image: `MemWrite`, `WriteSector`,
which does not look at the lock, and `EnvWriteSector` on an unlocked image, which alone notifies (20 R63, R71; 43 R212,
R222; decisions D9, D27). That `MemWrite` runs by itself is the model's choice (log 33). -/
def Obligations.SectorWriteReplacesOneSector : Prop :=
  ∀ (s : State) (d : DiskId) (img : Image) (n : Nat) (data : List Byte), s.image d = some img →
    1 ≤ n → n ≤ img.count → data.length = (if n ≤ 3 then 128 else img.sectorSize.toNat) →
    ∃ t img', t = { s with disks := replaceDisk s.disks d img', ret := .done } ∧
      exec (.memWrite d n data) s = .next t ∧ exec (.writeSector d n data) s = .next t ∧
      (img.lock = false → exec (.envWriteSector d n data) s =
        .next { t with outNote := s.outNote ++ [.diskChanged d n] }) ∧
      t.image d = some img' ∧ (∀ e, e ≠ d → t.image e = s.image e) ∧
      imageShape img' = imageShape img ∧ img'.sector n = data ∧
      (∀ m, 1 ≤ m → m ≤ img.count → m ≠ n → img'.sector m = img.sector m) ∧
      ∀ a, (a < img.base n ∨ img.base n + data.length ≤ a) → Memory.read img'.mem a = Memory.read img.mem a

/-- A store write with a bad number or a buffer of another length is a no-op with a log entry; on a locked image
`EnvWriteSector` fails before the store is touched (43 R212, R222; 20 R74; decision D9). -/
def Obligations.BadOrLockedSectorWriteChangesNothing : Prop :=
  ∀ (s : State) (d : DiskId) (img : Image) (n : Nat) (data : List Byte), s.image d = some img →
    ((n = 0 ∨ img.count < n) →
      exec (.writeSector d n data) s =
        .next { s with outLog := s.outLog ++ [.invalidSectorNumber n], ret := .done } ∧
      (img.lock = false → exec (.envWriteSector d n data) s =
        .next { s with outLog := s.outLog ++ [.invalidSectorNumber n], ret := .done })) ∧
    (1 ≤ n → n ≤ img.count → data.length ≠ (if n ≤ 3 then 128 else img.sectorSize.toNat) →
      exec (.writeSector d n data) s =
        .next { s with outLog := s.outLog ++ [.badSectorLength n data.length], ret := .done } ∧
      (img.lock = false → exec (.envWriteSector d n data) s =
        .next { s with outLog := s.outLog ++ [.badSectorLength n data.length], ret := .done })) ∧
    (img.lock = true → exec (.envWriteSector d n data) s = .next { s with ret := .error .diskLocked })

/-- `Size` is the sum of all sector lengths, `NumSectors` their number (43 R213). -/
def Obligations.SizeIsTheSumOfSectorLengths : Prop :=
  ∀ (s : State) (d : DiskId) (img : Image), s.image d = some img →
    exec (.imageSize d) s = .next { s with
      ret := .number ((List.range img.count).map fun k => if k + 1 ≤ 3 then 128 else img.sectorSize.toNat).sum } ∧
    exec (.numSectors d) s = .next { s with ret := .number img.count }

/-- `Len` is the 128/256 mux; `MemRead` returns the bytes asked for, or none where the sector does not exist, and has
no side effect; `Sector` is `MemRead` of the whole sector and a log entry on none (20 R61, R62). -/
def Obligations.LenAndMemRead : Prop :=
  ∀ (s : State) (d : DiskId) (img : Image) (n off len : Nat), s.image d = some img →
    (1 ≤ n → exec (.len d n) s =
      .next { s with ret := .number (if n ≤ 3 then 128 else img.sectorSize.toNat) }) ∧
    (1 ≤ n → n ≤ img.count → off + len ≤ (if n ≤ 3 then 128 else img.sectorSize.toNat) →
      exec (.memRead d n off len) s =
        .next { s with ret := .maybeBytes (some (((img.sector n).drop off).take len)) }) ∧
    ((n = 0 ∨ img.count < n) → exec (.memRead d n off len) s = .next { s with ret := .maybeBytes none }) ∧
    ∃ v, exec (.memRead d n 0 (if n ≤ 3 then 128 else img.sectorSize.toNat)) s =
        .next { s with ret := .maybeBytes v } ∧
      exec (.sector d n) s = .next { s with
        outLog := s.outLog ++ (if v = none then [.invalidSectorNumber n] else []), ret := .maybeBytes v }

/-- Where the spec states no answer, `Len(d, 0)` and `MemRead` past the sector's end, the operation completes with a
free value and no other effect on the block (the model's choice, log 17). -/
def Obligations.UnstatedAnswersAreFree : Prop :=
  ∀ (s : State) (d : DiskId) (img : Image) (n off len : Nat), s.image d = some img →
    (∃ v, exec (.len d 0) s = .next { s with ret := .number v, draws := s.draws + 1 }) ∧
    (1 ≤ n → n ≤ img.count → (if n ≤ 3 then 128 else img.sectorSize.toNat) < off + len →
      ∃ v, exec (.memRead d n off len) s = .next { s with ret := .maybeBytes v, draws := s.draws + 1 })

/-- The failures of `Decode`, in their order; nothing but the answer changes (43 R214, R215, R217; 60 R305; decisions
D7, D16, D17). -/
def Obligations.DecodeFailuresInOrder : Prop :=
  ∀ (s : State) (file : List Byte),
    let fails (a : Answer) : Prop := exec (.decodeImage file) s = .next { s with ret := a }
    let field (k : Nat) : Nat := (file.getD k 0).toNat + 256 * (file.getD (k + 1) 0).toNat
    (file.length ≤ 16 → fails (.error (.corruptImage .tooShort))) ∧
    (16 < file.length →
      (file.take 2 ≠ [0x96, 0x02] → fails (.error (.corruptImage .badMagic))) ∧
      (file.take 2 = [0x96, 0x02] →
        (file.length - 16 < 16 * field 2 → fails (.error (.corruptImage .sizeExceedsData))) ∧
        (16 * field 2 ≤ file.length - 16 →
          (field 4 = 0 → fails (.error (.corruptImage .zeroSectorSize))) ∧
          (field 4 ≠ 0 → field 4 ≠ 128 → field 4 ≠ 256 → fails (.refused (.unsupportedSectorSize (field 4)))))))

/-- A good file decodes to an unlocked image of as many sectors as fit, each the slice of the file at its place; a
remainder shorter than a sector is dropped (43 R214, R216; 20 R69, R73; decisions D16, D18). -/
def Obligations.DecodedImageIsTheFileSliced : Prop :=
  ∀ (s : State) (file : List Byte) (size : SectorSize),
    let rest := file.length - 16
    16 < file.length → file.take 2 = [0x96, 0x02] →
    16 * ((file.getD 2 0).toNat + 256 * (file.getD 3 0).toNat) ≤ rest →
    (file.getD 4 0).toNat + 256 * (file.getD 5 0).toNat = size.toNat →
    ∃ img, exec (.decodeImage file) s = .next { s with ret := .image img } ∧
      img.lock = false ∧ img.sectorSize = size ∧
      img.count = (if rest < 384 then rest / 128 else 3 + (rest - 384) / size.toNat) ∧
      ∀ n, 1 ≤ n → n ≤ img.count →
        img.sector n = (file.drop (fileOffset size.toNat n)).take (if n ≤ 3 then 128 else size.toNat)

/-- `Encode` and `SaveImage` give the 16-byte header with both fields recomputed, then every sector at its place, and
change nothing (43 R218; 45 R285). -/
def Obligations.EncodedFileLayout : Prop :=
  ∀ (s : State) (d : DiskId) (img : Image), s.image d = some img → img.size ≤ 65535 * 16 →
    ∃ file : List Byte,
      exec (.encodeImage img) s = .next { s with ret := .bytes file } ∧
      exec (.saveImage d) s = .next { s with ret := .bytes file } ∧
      file.length = 16 + img.size ∧
      file.take 16 = [0x96, 0x02, BitVec.ofNat 8 (img.size / 16), BitVec.ofNat 8 (img.size / 16 / 256),
        BitVec.ofNat 8 img.sectorSize.toNat, BitVec.ofNat 8 (img.sectorSize.toNat / 256),
        0, 0, 0, 0, 0, 0, 0, 0, 0, 0] ∧
      ∀ n, 1 ≤ n → n ≤ img.count →
        (file.drop (fileOffset img.sectorSize.toNat n)).take (if n ≤ 3 then 128 else img.sectorSize.toNat) =
          img.sector n

/-- What `Encode` writes, `Decode` gives back, unlocked; above 65535 paragraphs `Encode` and `SaveImage` are refused;
an image with no sector encodes to a file `Decode` rejects (43 R219, R220; decision D19). -/
def Obligations.DecodeOfEncodeIsTheImage : Prop :=
  ∀ (s : State) (img : Image), img.wf = true →
    (1 ≤ img.count → img.size ≤ 65535 * 16 →
      ∃ file : List Byte, exec (.encodeImage img) s = .next { s with ret := .bytes file } ∧
        exec (.decodeImage file) s = .next { s with ret := .image { img with lock := false } }) ∧
    (img.count = 0 → ∃ file : List Byte, file.length = 16 ∧
      exec (.encodeImage img) s = .next { s with ret := .bytes file } ∧
      exec (.decodeImage file) s = .next { s with ret := .error (.corruptImage .tooShort) }) ∧
    (65535 * 16 < img.size →
      exec (.encodeImage img) s = .next { s with ret := .refused (.imageTooLarge (img.size / 16)) } ∧
      ∀ d, s.image d = some img →
        exec (.saveImage d) s = .next { s with ret := .refused (.imageTooLarge (img.size / 16)) })

/-- A created-empty image is 720 sectors of 128 zero bytes, unlocked, no DOS 2 disk, with an empty directory;
`NewImage` stores it under a fresh identity, not mounted (43 R221; 45 R283; 10 R31, R38; decision D18). Which identity is
fresh, and its place in the list, are the model's choice (log 10). -/
def Obligations.NewImageIsBlank : Prop :=
  ∀ s : State, ∃ img : Image,
    exec .createEmpty s = .next { s with ret := .image img } ∧
    exec .newImage s = .next { s with
      disks := s.disks ++ [(s.nextDisk, img)], nextDisk := s.nextDisk + 1, ret := .disk s.nextDisk } ∧
    (s.inv = true → s.image s.nextDisk = none ∧ ∀ k, s.dpSlot.get k ≠ some s.nextDisk) ∧
    img.count = 720 ∧ img.sectorSize = .s128 ∧ img.lock = false ∧
    (∀ n, 1 ≤ n → n ≤ 720 → img.sector n = List.replicate 128 0) ∧
    img.isDos2 = false ∧ img.directory = []

/-- `LoadImage` runs `Decode`: a decoded image is stored under a fresh identity, not mounted; otherwise nothing changes
but the answer, which is `Decode`'s (45 R284; 10 R31). Which identity is fresh, and its place in the list, are the
model's choice (log 10). -/
def Obligations.LoadImageStoresOrRejects : Prop :=
  ∀ (s : State) (file : List Byte),
    (∃ img, exec (.decodeImage file) s = .next { s with ret := .image img } ∧
      exec (.loadImage file) s = .next { s with
        disks := s.disks ++ [(s.nextDisk, img)], nextDisk := s.nextDisk + 1, ret := .disk s.nextDisk } ∧
      (s.inv = true → s.image s.nextDisk = none ∧ ∀ k, s.dpSlot.get k ≠ some s.nextDisk)) ∨
    ∃ a, (∀ img, a ≠ .image img) ∧ exec (.decodeImage file) s = .next { s with ret := a } ∧
      exec (.loadImage file) s = .next { s with ret := a }

/-! ## The environment -/

/-- `Open` and `Close`: what each clears and keeps (45 R281, R282; 70 R342; decision D15). -/
def Obligations.OpenAndClose : Prop :=
  ∀ s : State,
    exec .openTransport s = .next { s with
      trOpen := true, fePhase := .awaitLen, feBuf := [], feLastRx := none, ret := .done } ∧
    exec .closeTransport s = .next { s with
      trOpen := false, fePhase := .awaitLen, feBuf := [], feLastRx := none, dpDeferred := [], dpWp := none,
      ret := .done }

/-- `DestroyImage` takes the disk out of every slot, notifying when it was in one, and out of `DISKS`; other disks and
slots, and everything else, stay (45 R286; decision D25). -/
def Obligations.DestroyedImageIsGone : Prop :=
  ∀ (s : State) (d : DiskId), ∃ t, exec (.destroyImage d) s = .next t ∧
    t = { s with
      disks := t.disks, dpSlot := t.dpSlot, ret := .done,
      outNote := s.outNote ++ (if s.dpSlot.holds d = true then [.mountChanged] else []) } ∧
    (s.dpSlot.holds d = true ↔ ∃ k, s.dpSlot.get k = some d) ∧
    t.image d = none ∧ (∀ e, e ≠ d → t.image e = s.image e) ∧
    ∀ k, t.dpSlot.get k = if s.dpSlot.get k = some d then none else s.dpSlot.get k

/-- `SetLock` sets the lock of one image and nothing else, with no notification (45 R287; decision D25). -/
def Obligations.SetLockSetsOneLock : Prop :=
  ∀ (s : State) (d : DiskId) (img : Image) (v : Bool), s.image d = some img →
    ∃ t, exec (.setLock d v) s = .next t ∧ t = { s with disks := t.disks, ret := .done } ∧
      t.image d = some { img with lock := v } ∧ ∀ e, e ≠ d → t.image e = s.image e

/-- `Mount` puts the disk in the slot and takes it out of every other; `Unmount` takes it out of every slot; each
notifies once; outside its requirement `Mount` is refused and changes nothing (45 R288, R289; decision D24). -/
def Obligations.MountAndUnmount : Prop :=
  ∀ (s : State) (d : DiskId) (slot : Nat),
    (slot ≤ 7 → (s.image d).isSome = true → ∃ t, exec (.mount d slot) s = .next t ∧
      t = { s with dpSlot := t.dpSlot, outNote := s.outNote ++ [.mountChanged], ret := .done } ∧
      t.dpSlot.get slot = some d ∧
      ∀ j, j ≠ slot → t.dpSlot.get j = if s.dpSlot.get j = some d then none else s.dpSlot.get j) ∧
    ((8 ≤ slot ∨ s.image d = none) →
      exec (.mount d slot) s = .next { s with ret := .refused (.mountRefused d slot) }) ∧
    (∃ t, exec (.unmount d) s = .next t ∧
      t = { s with dpSlot := t.dpSlot, outNote := s.outNote ++ [.mountChanged], ret := .done } ∧
      ∀ j, t.dpSlot.get j = if s.dpSlot.get j = some d then none else s.dpSlot.get j)

/-! ## The DOS 2 parser -/

/-- The filesystem test, and what every lookup answers on a disk that fails it (44 R241, R242; decisions D20, D22; log
19). -/
def Obligations.Dos2TestGuardsTheParser : Prop :=
  ∀ (s : State) (d : DiskId) (img : Image), s.image d = some img →
    exec (.isDos2 d) s =
      .next { s with ret := .truth (decide (369 ≤ img.count) && (img.sector 360)[0]? == some 2) } ∧
    (¬ (369 ≤ img.count ∧ (img.sector 360)[0]? = some 2) →
      exec (.directory d) s = .next { s with ret := .entries [] } ∧
      exec (.hasVtoc2 d) s = .next { s with ret := .truth false } ∧
      exec (.vtoc2FreeCount d) s = .next { s with ret := .error .noVtoc2 } ∧
      (∀ i ∈ [Instr.vtocVersion d, .vtocFreeCount d, .freeSectorList d, .bitmapFreeCount d],
        exec i s = .next { s with ret := .error .notDos2 }) ∧
      ∀ n m, ∀ i ∈ [Instr.sectorIsFree d n, .dirEntry d n, .tail d n, .fileContents d n m],
        exec i s = .next { s with ret := .error .notDos2 })

/-- The stored fields of the VTOC and the VTOC2, and when there is a VTOC2 (44 R243, R244; 30 R113, R115; decision
D21). -/
def Obligations.VtocFieldsAreReportedAsStored : Prop :=
  ∀ (s : State) (d : DiskId) (img : Image), s.image d = some img → img.isDos2 = true →
    let field (n k : Nat) : BitVec 16 :=
      BitVec.ofNat 16 (((img.sector n).getD k 0).toNat + 256 * ((img.sector n).getD (k + 1) 0).toNat)
    exec (.vtocVersion d) s = .next { s with ret := .byte 2 } ∧
    exec (.vtocFreeCount d) s = .next { s with ret := .word (field 360 3) } ∧
    exec (.hasVtoc2 d) s = .next { s with ret := .truth (decide (1024 ≤ img.count)) } ∧
    (1024 ≤ img.count → exec (.vtoc2FreeCount d) s = .next { s with ret := .word (field 1024 122) }) ∧
    (img.count < 1024 → exec (.vtoc2FreeCount d) s = .next { s with ret := .error .noVtoc2 })

/-- A sector is free when its bit, most significant first, is 1; the free list is ascending and holds exactly the free
sectors; the count is its length (44 R245, R246; 30 R114, R115; decision D21). -/
def Obligations.BitmapLookupsAgree : Prop :=
  ∀ (s : State) (d : DiskId) (img : Image), s.image d = some img → img.isDos2 = true →
    ∃ free : List Nat,
      exec (.freeSectorList d) s = .next { s with ret := .numbers free } ∧
      exec (.bitmapFreeCount d) s = .next { s with ret := .number free.length } ∧
      free.Pairwise (· < ·) ∧
      ∀ n, ∃ a, exec (.sectorIsFree d n) s = .next { s with ret := .freeness a } ∧
        (n ∈ free ↔ a = .free) ∧
        (n ≤ 719 → a = if ((img.sector 360).getD (10 + n / 8) 0).getLsbD (7 - n % 8) then .free else .used) ∧
        (720 ≤ n → n ≤ 1023 → 1024 ≤ img.count →
          a = if ((img.sector 1024).getD (84 + (n - 720) / 8) 0).getLsbD (7 - (n - 720) % 8) then .free else .used) ∧
        ((1024 ≤ n ∨ (720 ≤ n ∧ img.count < 1024)) → a = .notCovered)

/-- A directory entry is decoded from its positional place, whatever its flags; it is live when bit 7 is 0 and bit 6 is
1, a free slot when the whole flag byte is 0x00 or 0x80, and other otherwise; deleted is bit 7 and locked is bit 5; the
directory is the live entries, all of them, in ascending order; on a disk that is not DOS 2 an entry is `NotDOS2` and
the directory is empty (44 R248, R249, R250; 30 R111, R112). -/
def Obligations.DirectoryListsTheLiveEntries : Prop :=
  ∀ (s : State) (d : DiskId) (img : Image), s.image d = some img →
    ∃ entry : Nat → DirEntry,
      (∀ k, let byte (o : Nat) : Byte := (img.sector (361 + k / 8)).getD (k % 8 * 16 + o) 0
        (entry k).index = k ∧ (entry k).record.flags = byte 0 ∧
        (entry k).record.length = BitVec.ofNat 16 ((byte 1).toNat + 256 * (byte 2).toNat) ∧
        (entry k).record.start = BitVec.ofNat 16 ((byte 3).toNat + 256 * (byte 4).toNat) ∧
        (entry k).record.filename = [byte 5, byte 6, byte 7, byte 8, byte 9, byte 10, byte 11, byte 12] ∧
        (entry k).record.extension = [byte 13, byte 14, byte 15]) ∧
      (img.isDos2 = true →
        (∀ k, k ≤ 63 → exec (.dirEntry d k) s = .next { s with ret := .entry (entry k) }) ∧
        (∀ k, 63 < k → exec (.dirEntry d k) s = .next { s with ret := .error .badEntryIndex }) ∧
        exec (.directory d) s = .next { s with
          ret := .entries (((List.range 64).map entry).filter fun e =>
            !e.record.flags.getLsbD 7 && e.record.flags.getLsbD 6) }) ∧
      (img.isDos2 = false →
        (∀ k, exec (.dirEntry d k) s = .next { s with ret := .error .notDos2 }) ∧
        exec (.directory d) s = .next { s with ret := .entries [] }) ∧
      ∀ e : DirEntry, exec (.entryKind e) s = .next { s with
        ret := .kind (if e.record.flags.getLsbD 7 = false ∧ e.record.flags.getLsbD 6 = true then .live
          else if e.record.flags = 0x00 ∨ e.record.flags = 0x80 then .freeSlot else .other) } ∧
        flagDeleted e.record.flags = e.record.flags.getLsbD 7 ∧ flagLocked e.record.flags = e.record.flags.getLsbD 5

/-- The shown name: the filename without trailing spaces, and, when the extension is not blank, a full stop and the
extension without them (44 R251; decision D30; log 31). -/
def Obligations.EntryNameIsTrimmed : Prop :=
  ∀ (s : State) (e : DirEntry) (name ext : List Byte) (j k : Nat),
    e.record.filename = name ++ List.replicate j 0x20 → e.record.extension = ext ++ List.replicate k 0x20 →
    name.getLast? ≠ some 0x20 → ext.getLast? ≠ some 0x20 →
    exec (.entryName e) s = .next { s with ret := .bytes (if ext = [] then name else name ++ [0x2E] ++ ext) }

/-- The tail of an existing sector: file number, next sector with its high part first, data length (44 R253; 30 R116;
log 19). -/
def Obligations.TailFieldsAreReportedAsStored : Prop :=
  ∀ (s : State) (d : DiskId) (img : Image) (n : Nat), s.image d = some img → img.isDos2 = true →
    (1 ≤ n → n ≤ img.count → ∃ t : Tail, exec (.tail d n) s = .next { s with ret := .tail t } ∧
      ∃ t0 t1 t2 : Byte, (img.sector n).drop ((img.sector n).length - 3) = [t0, t1, t2] ∧
        t.fileNo.toNat = t0.toNat / 4 ∧ t.next.toNat = 256 * (t0.toNat % 4) + t1.toNat ∧ t.dataLen = t2) ∧
    ((n = 0 ∨ img.count < n) → exec (.tail d n) s = .next { s with ret := .error (.invalidSector n) })

/-- `FileContents` always completes, changes nothing but the answer, and answers bytes exactly when there is a chain
from the start to a link 0 whose sectors all exist, carry the file number and hold no more than their capacity, of no
more hops than the disk has sectors; the bytes are the chain's. Wherever the sound hops from the start lead, the first
hop included, the next sector's failure is the answer: it does not exist, it is one hop more than the disk has sectors,
its file number differs, its length is over the capacity, in this order (44 R254, R255; 60 R305; 30 R116; decisions D7,
D22). -/
def Obligations.FileContentsIsTheChain : Prop :=
  ∀ (s : State) (d : DiskId) (img : Image) (start fileNo : Nat), s.image d = some img → img.isDos2 = true →
    ∃ a, exec (.fileContents d start fileNo) s = .next { s with ret := a } ∧
      (∀ bs, a = .bytes bs ↔ ∃ chain : List Nat, chain.head? = some start ∧ chain.length ≤ img.count ∧
        isChain img fileNo chain ∧ bs = chainBytes img chain) ∧
      ∀ (visited : List Nat) (cur : Nat), leadsTo img fileNo start visited cur → visited.length ≤ img.count →
        ((cur = 0 ∨ img.count < cur) → a = .error (.invalidSector cur)) ∧
        (1 ≤ cur → cur ≤ img.count →
          (visited.length = img.count → a = .error (.chainLoop cur)) ∧
          (visited.length < img.count →
            ((img.tailAt cur).fileNo.toNat ≠ fileNo →
              a = .error (.fileNumberMismatch cur (img.tailAt cur).fileNo.toNat)) ∧
            ((img.tailAt cur).fileNo.toNat = fileNo → img.len cur - 3 < (img.tailAt cur).dataLen.toNat →
              a = .error (.badDataLength cur (img.tailAt cur).dataLen.toNat))))

/-! ## Layouts, and where the model stops -/

/-- The byte layouts, read by their rules, change nothing but the answer (30 R100, R110, R112 to R116; the reading as an
instruction is the model's, log 11). -/
def Obligations.LayoutsAreReadByTheirRules : Prop :=
  ∀ s : State,
    (∀ (paragraphs : BitVec 16) (size : SectorSize),
      exec (.imageHeader paragraphs (BitVec.ofNat 16 size.toNat)) s =
        .next { s with ret := .header (16 * paragraphs.toNat) size }) ∧
    (∀ paragraphs size : BitVec 16,
      (size = 0 →
        exec (.imageHeader paragraphs size) s = .next { s with ret := .error (.corruptImage .zeroSectorSize) }) ∧
      (size ≠ 0 → size ≠ 128 → size ≠ 256 → exec (.imageHeader paragraphs size) s =
        .next { s with ret := .refused (.unsupportedSectorSize size.toNat) })) ∧
    (∀ flags byte1 reserved : Byte, exec (.statusPayload flags byte1 reserved) s =
      .next { s with ret := .bytes [flags, byte1, 5, reserved] }) ∧
    (∀ r : DirRecord, ∃ k, exec (.dirEntryStruct r) s = .next { s with
      ret := .entryFlags (r.flags.getLsbD 7) (r.flags.getLsbD 6) (r.flags.getLsbD 5) k } ∧
      (k = .live ↔ r.flags.getLsbD 7 = false ∧ r.flags.getLsbD 6 = true) ∧
      (k = .freeSlot ↔ r.flags = 0x00 ∨ r.flags = 0x80)) ∧
    (∀ v : Vtoc, ∃ free, exec (.vtocStruct v) s = .next { s with ret := .vtoc v.version v.free free } ∧
      ∀ n, n ∈ free ↔ n ≤ 719 ∧ (v.bitmap.getD (n / 8) 0).getLsbD (7 - n % 8) = true) ∧
    (∀ v : Vtoc2, ∃ free, exec (.vtoc2Struct v) s = .next { s with ret := .vtoc2 v.free free } ∧
      ∀ n, n ∈ free ↔ 720 ≤ n ∧ n ≤ 1023 ∧
        (v.bitmap.getD ((n - 720) / 8) 0).getLsbD (7 - (n - 720) % 8) = true) ∧
    (∀ t : Tail, exec (.chainTail t) s = .next { s with ret := .tail t })

/-- On a closed transport no byte is taken and no deferred reply is sent: nothing of the block changes (41 R140; 42
R190; 70 R343; decision D15; log 6, 12). -/
def Obligations.ClosedTransportTakesNothing : Prop :=
  ∀ (s : State) (b : Byte) (payload : List Byte) (now : Time), s.trOpen = false →
    ∀ i ∈ [Instr.rxByte b now, .fireDeferred now, .frameIn payload b now, .writeDataFrame payload b now],
      exec i s = .next { s with ret := .notAdmitted }
end

