-- ==== Sys2Proof/Laws/Memory.lean ====
section
/-! SUPPORT. The memory of an image: reads after writes, the canonical form, and that equal contents are equal data. -/

namespace Sys2Proof

@[simp] theorem Memory.read_nil (a : Nat) : Memory.read [] a = 0 := rfl

theorem Memory.read_cons (k : Nat) (v : Byte) (m : Memory) (a : Nat) :
    Memory.read ((k, v) :: m) a = if k = a then v else Memory.read m a := rfl

/-- The canonical form, as a statement about the cells. -/
theorem Memory.wfFrom_iff (m : Memory) (lo : Nat) :
    Memory.wfFrom lo m = true ↔
      m.Pairwise (fun c d => c.1 < d.1) ∧ ∀ c ∈ m, lo ≤ c.1 ∧ c.2 ≠ 0 := by
  induction m generalizing lo with
  | nil => simp [Memory.wfFrom]
  | cons c m ih =>
    obtain ⟨k, v⟩ := c
    simp only [Memory.wfFrom, Bool.and_eq_true, decide_eq_true_eq, bne_iff_ne, ih,
      List.pairwise_cons, List.forall_mem_cons]
    constructor
    · rintro ⟨⟨hk, hv⟩, hp, hm⟩
      exact ⟨⟨fun d hd => by have := (hm d hd).1; omega, hp⟩, ⟨hk, hv⟩,
        fun d hd => ⟨by have := (hm d hd).1; omega, (hm d hd).2⟩⟩
    · rintro ⟨⟨hlt, hp⟩, ⟨hk, hv⟩, hm⟩
      exact ⟨⟨hk, hv⟩, hp, fun d hd => ⟨hlt d hd, (hm d hd).2⟩⟩

theorem Memory.wf_iff (m : Memory) :
    Memory.wf m = true ↔ m.Pairwise (fun c d => c.1 < d.1) ∧ ∀ c ∈ m, c.2 ≠ 0 := by
  simp [Memory.wf, Memory.wfFrom_iff]

@[simp] theorem Memory.wf_nil : Memory.wf [] = true := rfl

theorem Memory.read_eq_zero (m : Memory) (a : Nat) (h : ∀ c ∈ m, c.1 ≠ a) : Memory.read m a = 0 := by
  induction m with
  | nil => rfl
  | cons c m ih =>
    rw [List.forall_mem_cons] at h
    rw [Memory.read_cons, if_neg h.1, ih h.2]

theorem Memory.read_append_right (m₁ m₂ : Memory) (a : Nat) (h : ∀ c ∈ m₁, c.1 ≠ a) :
    Memory.read (m₁ ++ m₂) a = Memory.read m₂ a := by
  induction m₁ with
  | nil => rfl
  | cons c m ih =>
    rw [List.forall_mem_cons] at h
    rw [List.cons_append, Memory.read_cons, if_neg h.1, ih h.2]

theorem Memory.read_append_left (m₁ m₂ : Memory) (a : Nat) (h : ∀ c ∈ m₂, c.1 ≠ a) :
    Memory.read (m₁ ++ m₂) a = Memory.read m₁ a := by
  induction m₁ with
  | nil => simpa using Memory.read_eq_zero m₂ a h
  | cons c m ih => rw [List.cons_append, Memory.read_cons, Memory.read_cons, ih]

theorem Memory.read_filter (m : Memory) (q : Nat → Bool) (a : Nat) (h : q a = true) :
    Memory.read (m.filter fun c => q c.1) a = Memory.read m a := by
  induction m with
  | nil => rfl
  | cons c m ih =>
    obtain ⟨k, v⟩ := c
    by_cases hk : q k = true
    · rw [List.filter_cons_of_pos (by simpa using hk), Memory.read_cons, Memory.read_cons, ih]
    · have : k ≠ a := by rintro rfl; exact hk h
      rw [List.filter_cons_of_neg (by simpa using hk), Memory.read_cons, if_neg this, ih]

theorem Memory.mem_cells {a : Nat} {data : List Byte} {c : Host.Cell} (h : c ∈ Memory.cells a data) :
    a ≤ c.1 ∧ c.1 < a + data.length ∧ c.2 ≠ 0 := by
  induction data generalizing a with
  | nil => simp [Memory.cells] at h
  | cons b data ih =>
    rw [Memory.cells] at h
    split at h
    · obtain ⟨h₁, h₂, h₃⟩ := ih h
      exact ⟨by omega, by simp only [List.length_cons]; omega, h₃⟩
    · rcases List.mem_cons.1 h with rfl | h
      · simp only [List.length_cons]; exact ⟨le_rfl, by omega, ‹_›⟩
      · obtain ⟨h₁, h₂, h₃⟩ := ih h
        exact ⟨by omega, by simp only [List.length_cons]; omega, h₃⟩

theorem Memory.cells_sorted (a : Nat) (data : List Byte) :
    (Memory.cells a data).Pairwise (fun c d => c.1 < d.1) := by
  induction data generalizing a with
  | nil => exact List.Pairwise.nil
  | cons b data ih =>
    rw [Memory.cells]
    split
    · exact ih _
    · exact List.pairwise_cons.2 ⟨fun d hd => (Memory.mem_cells hd).1, ih _⟩

/-- What a block of bytes reads as: byte `x - a` inside it, 0x00 outside it. -/
theorem Memory.read_cells (a : Nat) (data : List Byte) (x : Nat) :
    Memory.read (Memory.cells a data) x = if a ≤ x then data.getD (x - a) 0 else 0 := by
  induction data generalizing a with
  | nil => simp [Memory.cells]
  | cons b data ih =>
    rw [Memory.cells]
    rcases lt_trichotomy a x with hx | rfl | hx
    · have hs : x - a = (x - (a + 1)) + 1 := by omega
      rw [if_pos hx.le, hs, List.getD_cons_succ]
      split
      · rw [ih, if_pos (by omega)]
      · rw [Memory.read_cons, if_neg (by omega), ih, if_pos (by omega)]
    · simp only [le_refl, if_true, Nat.sub_self, List.getD_cons_zero]
      split
      · rw [ih, if_neg (by omega)]; exact Eq.symm ‹b = 0›
      · rw [Memory.read_cons, if_pos rfl]
    · have ha : ¬ a ≤ x := by omega
      have ha1 : ¬ a + 1 ≤ x := by omega
      have hne : a ≠ x := by omega
      by_cases hb : b = 0
      · simp only [hb, if_true, ih, ha, ha1, if_false]
      · simp only [hb, if_false, Memory.read_cons, hne, ih, ha, ha1]

@[simp] theorem Memory.wf_cells (a : Nat) (data : List Byte) : Memory.wf (Memory.cells a data) = true :=
  (Memory.wf_iff _).2 ⟨Memory.cells_sorted a data, fun _ h => (Memory.mem_cells h).2.2⟩

/-- A write leaves every address outside the block alone. -/
theorem Memory.read_write_outside (m : Memory) (a : Nat) (data : List Byte) (x : Nat)
    (h : x < a ∨ a + data.length ≤ x) : Memory.read (Memory.write m a data) x = Memory.read m x := by
  unfold Memory.write
  rcases h with h | h
  · rw [List.append_assoc, Memory.read_append_left]
    · exact Memory.read_filter m (fun k => decide (k < a)) x (by simpa using h)
    · intro c hc
      rcases List.mem_append.1 hc with hc | hc
      · have := Memory.mem_cells hc; omega
      · have := (List.mem_filter.1 hc).2; simp only [decide_eq_true_eq] at this; omega
  · rw [Memory.read_append_right]
    · exact Memory.read_filter m (fun k => decide (a + data.length ≤ k)) x (by simpa using h)
    · intro c hc
      rcases List.mem_append.1 hc with hc | hc
      · have := (List.mem_filter.1 hc).2; simp only [decide_eq_true_eq] at this; omega
      · have := Memory.mem_cells hc; omega

/-- A write is read back. -/
theorem Memory.read_write_inside (m : Memory) (a : Nat) (data : List Byte) (k : Nat) (h : k < data.length) :
    Memory.read (Memory.write m a data) (a + k) = data.getD k 0 := by
  unfold Memory.write
  rw [Memory.read_append_left, Memory.read_append_right, Memory.read_cells, if_pos (by omega)]
  · congr 1; omega
  · intro c hc; have := (List.mem_filter.1 hc).2; simp only [decide_eq_true_eq] at this; omega
  · intro c hc; have := (List.mem_filter.1 hc).2; simp only [decide_eq_true_eq] at this; omega

/-- A write keeps the canonical form. -/
theorem Memory.wf_write {m : Memory} (h : Memory.wf m = true) (a : Nat) (data : List Byte) :
    Memory.wf (Memory.write m a data) = true := by
  rw [Memory.wf_iff] at h ⊢
  obtain ⟨hs, hz⟩ := h
  have hlow : ∀ c ∈ m.filter (fun c => decide (c.1 < a)), c.1 < a := fun c hc => by
    simpa using (List.mem_filter.1 hc).2
  have hhigh : ∀ c ∈ m.filter (fun c => decide (a + data.length ≤ c.1)), a + data.length ≤ c.1 :=
    fun c hc => by simpa using (List.mem_filter.1 hc).2
  unfold Memory.write
  refine ⟨List.pairwise_append.2 ⟨List.pairwise_append.2 ⟨hs.filter _, Memory.cells_sorted a data,
    fun c hc d hd => ?_⟩, hs.filter _, fun c hc d hd => ?_⟩, fun c hc => ?_⟩
  · have := hlow c hc; have := Memory.mem_cells hd; omega
  · have := hhigh d hd
    rcases List.mem_append.1 hc with hc | hc
    · have := hlow c hc; omega
    · have := Memory.mem_cells hc; omega
  · rcases List.mem_append.1 hc with hc | hc
    · rcases List.mem_append.1 hc with hc | hc
      · exact hz c (List.mem_filter.1 hc).1
      · exact (Memory.mem_cells hc).2.2
    · exact hz c (List.mem_filter.1 hc).1

/-- A write inside `size` keeps every listed address below `size`. -/
theorem Memory.below_write {m : Memory} {size : Nat} (h : Memory.below m size = true) (a : Nat)
    (data : List Byte) (hd : a + data.length ≤ size) : Memory.below (Memory.write m a data) size = true := by
  simp only [Memory.below, List.all_eq_true, decide_eq_true_eq] at h ⊢
  intro c hc
  unfold Memory.write at hc
  rcases List.mem_append.1 hc with hc | hc
  · rcases List.mem_append.1 hc with hc | hc
    · exact h c (List.mem_filter.1 hc).1
    · have := Memory.mem_cells hc; omega
  · exact h c (List.mem_filter.1 hc).1

theorem Memory.below_cells (data : List Byte) (size : Nat) (h : data.length ≤ size) :
    Memory.below (Memory.cells 0 data) size = true := by
  simp only [Memory.below, List.all_eq_true, decide_eq_true_eq]
  intro c hc; have := Memory.mem_cells hc; omega

theorem Memory.read_eq_of_mem {m : Memory} (hs : m.Pairwise (fun c d => c.1 < d.1)) {c : Host.Cell}
    (hc : c ∈ m) : Memory.read m c.1 = c.2 := by
  induction m with
  | nil => cases hc
  | cons d m ih =>
    obtain ⟨k, v⟩ := d
    rw [List.pairwise_cons] at hs
    rw [Memory.read_cons]
    rcases List.mem_cons.1 hc with rfl | hc
    · rw [if_pos rfl]
    · rw [if_neg (by have := hs.1 c hc; simp only at this; omega), ih hs.2 hc]

/-- Canonical memories that read alike everywhere are equal. -/
theorem Memory.ext_of_wf {m₁ m₂ : Memory} (h₁ : Memory.wf m₁ = true) (h₂ : Memory.wf m₂ = true)
    (h : ∀ x, Memory.read m₁ x = Memory.read m₂ x) : m₁ = m₂ := by
  rw [Memory.wf_iff] at h₁ h₂
  have sub : ∀ {a b : Memory}, a.Pairwise (fun c d => c.1 < d.1) → (∀ c ∈ a, c.2 ≠ 0) →
      b.Pairwise (fun c d => c.1 < d.1) → (∀ x, Memory.read a x = Memory.read b x) → a ⊆ b := by
    intro a b ha hza hb hab c hc
    by_contra hn
    have hr := Memory.read_eq_of_mem ha hc
    rw [hab] at hr
    by_cases hk : ∃ d ∈ b, d.1 = c.1
    · obtain ⟨d, hd, hdc⟩ := hk
      have := Memory.read_eq_of_mem hb hd
      rw [hdc, hr] at this
      have hcd : c = d := Prod.ext hdc.symm this
      exact hn (hcd ▸ hd)
    · push Not at hk
      exact hza c hc (by rw [← hr, Memory.read_eq_zero b c.1 hk])
  have hp : m₁.Perm m₂ := (List.perm_ext_iff_of_nodup
    (h₁.1.imp (fun {c d} hlt => by rintro rfl; exact lt_irrefl _ hlt))
    (h₂.1.imp (fun {c d} hlt => by rintro rfl; exact lt_irrefl _ hlt))).2
    fun c => ⟨fun hc => sub h₁.1 h₁.2 h₂.1 h hc, fun hc => sub h₂.1 h₂.2 h₁.1 (fun x => (h x).symm) hc⟩
  exact hp.eq_of_pairwise (fun c d _ _ hcd hdc => absurd hcd (by omega)) h₁.1 h₂.1

end Sys2Proof
end

