-- ==== Sys2Proof/Laws/Image.lean ====
section
/-! SUPPORT. The sector space of one image: where sectors lie, what a sector write changes, and that every image the
store makes is well-formed. -/

namespace Sys2Proof

namespace Image

variable (img : Image)

theorem size_pos_of_main : 128 ≤ img.sectorSize.toNat := by
  cases img.sectorSize <;> decide

theorem len_pos (n : Nat) : 128 ≤ img.len n := by
  have := img.size_pos_of_main
  unfold Image.len Config.bootSize
  split <;> omega

theorem len_le (n : Nat) : img.len n ≤ 256 := by
  have h : img.sectorSize.toNat ≤ 256 := by cases img.sectorSize <;> decide
  unfold Image.len Config.bootSize
  split <;> omega

theorem has_iff (n : Nat) : img.has n = true ↔ 1 ≤ n ∧ n ≤ img.count := by
  simp [Image.has]

/-- Sectors follow each other with no gap (20 R69, R73). -/
theorem base_succ (n : Nat) (h : 1 ≤ n) : img.base (n + 1) = img.base n + img.len n := by
  unfold Image.base Image.len Config.bootSectors Config.bootSize
  rcases Nat.lt_trichotomy n 3 with h' | rfl | h'
  · rw [if_pos (by omega), if_pos (by omega), if_pos (by omega)]; omega
  · simp
  · rw [if_neg (by omega), if_neg (by omega), if_neg (by omega)]
    have h₁ : n + 1 - (3 + 1) = (n - (3 + 1)) + 1 := by omega
    rw [h₁, Nat.mul_add img.sectorSize.toNat _ 1]; omega

@[simp] theorem base_one : img.base 1 = 0 := rfl

/-- A sector ends before any later one begins. -/
theorem base_add_len_le {n m : Nat} (h₁ : 1 ≤ n) (h : n < m) : img.base n + img.len n ≤ img.base m := by
  induction m with
  | zero => omega
  | succ m ih =>
    rcases Nat.lt_or_ge n m with h' | h'
    · have := ih h'; rw [img.base_succ m (by omega)]; omega
    · obtain rfl : n = m := by omega
      rw [img.base_succ n h₁]

/-- `Size` is where a sector after the last would begin. -/
theorem size_eq_base : img.size = img.base (img.count + 1) := by
  unfold Image.size Image.base Config.bootSectors Config.bootSize
  rcases Nat.lt_or_ge img.count 3 with h | h
  · rw [if_pos (by omega), Nat.min_eq_left h.le, Nat.sub_eq_zero_of_le h.le]; omega
  · rw [Nat.min_eq_right h]
    rcases Nat.eq_or_lt_of_le h with h' | h'
    · rw [← h']; simp
    · rw [if_neg (by omega)]
      rw [show img.count + 1 - (3 + 1) = img.count - 3 by omega]

/-- Every sector lies inside `Size`. -/
theorem base_add_len_le_size {n : Nat} (h : img.has n = true) : img.base n + img.len n ≤ img.size := by
  rw [has_iff] at h
  rw [size_eq_base]
  exact img.base_add_len_le h.1 (by omega)

@[simp] theorem slice_length (n off len : Nat) : (img.slice n off len).length = len := by
  simp [Image.slice]

theorem slice_getD (n off len k : Nat) (h : k < len) : (img.slice n off len).getD k 0 = img.byte n (off + k) := by
  simp [Image.slice, List.getD, h]

@[simp] theorem sector_length (n : Nat) : (img.sector n).length = img.len n := slice_length ..

theorem sector_getD (n k : Nat) (h : k < img.len n) : (img.sector n).getD k 0 = img.byte n k := by
  rw [Image.sector, slice_getD _ _ _ _ _ h, Nat.zero_add]

/-! A sector write changes the bytes and nothing else of the image. -/

@[simp] theorem put_count (n : Nat) (data : List Byte) : (img.put n data).count = img.count := rfl
@[simp] theorem put_sectorSize (n : Nat) (data : List Byte) : (img.put n data).sectorSize = img.sectorSize := rfl
@[simp] theorem put_lock (n : Nat) (data : List Byte) : (img.put n data).lock = img.lock := rfl
@[simp] theorem put_len (n m : Nat) (data : List Byte) : (img.put n data).len m = img.len m := rfl
@[simp] theorem put_base (n m : Nat) (data : List Byte) : (img.put n data).base m = img.base m := rfl
@[simp] theorem put_size (n : Nat) (data : List Byte) : (img.put n data).size = img.size := rfl
@[simp] theorem put_has (n m : Nat) (data : List Byte) : (img.put n data).has m = img.has m := rfl

/-- The written sector reads as the data (20 R63, R76). -/
theorem byte_put_same (n : Nat) (data : List Byte) (k : Nat) (h : k < data.length) :
    (img.put n data).byte n k = data.getD k 0 :=
  Memory.read_write_inside _ _ _ _ h

/-- Every other sector reads as before (20 R63). -/
theorem byte_put_other {n m : Nat} (data : List Byte) (k : Nat) (hn : 1 ≤ n) (hm : 1 ≤ m) (hnm : m ≠ n)
    (hd : data.length = img.len n) (hk : k < img.len m) : (img.put n data).byte m k = img.byte m k := by
  refine Memory.read_write_outside _ _ _ _ ?_
  rcases Nat.lt_or_ge m n with h | h
  · have := img.base_add_len_le hm h; simp only [put_base]; omega
  · have := img.base_add_len_le hn (show n < m by omega); simp only [put_base]; omega

/-- The bytes past the written ones are left alone too, whatever the sector. -/
theorem sector_put_same (n : Nat) (data : List Byte) (hd : data.length = img.len n) :
    (img.put n data).sector n = data := by
  refine List.ext_getElem (by simp [hd]) fun k h₁ h₂ => ?_
  have := sector_getD (img.put n data) n k (by simpa using h₁)
  rw [byte_put_same _ _ _ _ h₂] at this
  rwa [List.getD_eq_getElem _ _ h₁, List.getD_eq_getElem _ _ h₂] at this

theorem sector_put_other {n m : Nat} (data : List Byte) (hn : 1 ≤ n) (hm : 1 ≤ m) (hnm : m ≠ n)
    (hd : data.length = img.len n) : (img.put n data).sector m = img.sector m := by
  unfold Image.sector Image.slice
  refine List.map_congr_left fun k hk => ?_
  rw [List.mem_range] at hk
  exact img.byte_put_other data _ hn hm hnm hd (by simpa using hk)

/-- A whole-sector write keeps an image well-formed. -/
theorem wf_put {img : Image} (h : img.wf = true) {n : Nat} {data : List Byte} (hn : img.has n = true)
    (hd : data.length = img.len n) : (img.put n data).wf = true := by
  simp only [Image.wf, Bool.and_eq_true] at h ⊢
  refine ⟨Memory.wf_write h.1 _ _, Memory.below_write h.2 _ _ ?_⟩
  have := img.base_add_len_le_size hn
  omega

theorem wf_lock {img : Image} (h : img.wf = true) (v : Bool) : ({ img with lock := v } : Image).wf = true := h

@[simp] theorem wf_empty : Image.empty.wf = true := rfl

/-- What `ofData` cuts is no longer than the data. -/
theorem ofData_size_le (size : SectorSize) (data : List Byte) : (Image.ofData size data).size ≤ data.length := by
  have hs : 0 < size.toNat := by cases size <;> decide
  have hb : bootCount data.length ≤ 3 ∧ bootCount data.length * 128 ≤ data.length := by
    unfold bootCount Config.bootSectors Config.bootSize; omega
  show 128 * min (bootCount data.length + mainCount size data.length) 3 +
    size.toNat * (bootCount data.length + mainCount size data.length - 3) ≤ data.length
  by_cases h : bootCount data.length = 3
  · have hm : size.toNat * mainCount size data.length ≤ data.length - 3 * 128 := by
      rw [mainCount, if_pos (show _ = Config.bootSectors from h)]; exact Nat.mul_div_le _ _
    rw [h, Nat.add_sub_cancel_left, Nat.min_eq_right (by omega)]
    omega
  · rw [mainCount, if_neg (show ¬ _ = Config.bootSectors from h), Nat.add_zero, Nat.min_eq_left hb.1, Nat.sub_eq_zero_of_le hb.1]
    omega

theorem ofData_mem (size : SectorSize) (data : List Byte) :
    (Image.ofData size data).mem = Memory.cells 0 (data.take (Image.ofData size data).size) := rfl

@[simp] theorem wf_ofData (size : SectorSize) (data : List Byte) : (Image.ofData size data).wf = true := by
  simp only [Image.wf, Bool.and_eq_true, ofData_mem]
  exact ⟨Memory.wf_cells .., Memory.below_cells _ _ (by simp [List.length_take])⟩

/-- Whatever `Decode` makes is well-formed, unlocked, and cut from the bytes after the header (43 R214). -/
theorem decode_ok {file : List Byte} {img : Image} (h : Image.decode file = .ok img) :
    ∃ size, img = Image.ofData size (file.drop 16) ∧
      headerSectorSize (le16 (file.getD 4 0) (file.getD 5 0)) = .ok size := by
  unfold Image.decode at h
  split at h
  · cases h
  · split at h
    · cases h
    · split at h
      · cases h
      · split at h
        · cases h
        · rename_i size hsz
          cases h
          exact ⟨size, rfl, hsz⟩

theorem wf_decode {file : List Byte} {img : Image} (h : Image.decode file = .ok img) : img.wf = true := by
  obtain ⟨size, rfl, -⟩ := decode_ok h
  exact wf_ofData ..

/-- A part of a sector is the part of the whole sector (20 R62). -/
theorem slice_eq {n off k : Nat} (h : off + k ≤ img.len n) :
    img.slice n off k = ((img.sector n).drop off).take k := by
  unfold Image.sector Image.slice
  refine List.ext_getElem (by simp; omega) fun i h₁ h₂ => ?_
  simp

/-- `Size` is a whole number of 16-byte paragraphs (30 R110). -/
theorem size_mod_16 : img.size % 16 = 0 := by
  unfold Image.size Config.bootSize Config.bootSectors
  cases img.sectorSize <;> simp only [SectorSize.toNat] <;> omega

/-! The sectors laid end to end (20 R73; 43 R218). -/

theorem sectors_length (c : Nat) :
    ((List.range c).flatMap fun k => img.sector (k + 1)).length = img.base (c + 1) := by
  induction c with
  | zero => rfl
  | succ c ih =>
    rw [List.range_succ, List.flatMap_append, List.length_append, ih, img.base_succ (c + 1) (by omega)]
    simp

/-- Byte `x` of the sectors laid end to end is the byte at address `x`. -/
theorem sectors_getD {c x : Nat} (hx : x < img.base (c + 1)) :
    ((List.range c).flatMap fun k => img.sector (k + 1)).getD x 0 = Memory.read img.mem x := by
  induction c with
  | zero => simp at hx
  | succ c ih =>
    rw [List.range_succ, List.flatMap_append]
    by_cases h : x < img.base (c + 1)
    · rw [List.getD_append _ _ _ _ (by rw [sectors_length]; exact h), ih h]
    · rw [List.getD_append_right _ _ _ _ (by rw [sectors_length]; omega), sectors_length]
      rw [img.base_succ (c + 1) (by omega)] at hx
      rw [List.flatMap_singleton, sector_getD _ _ _ (by omega)]
      unfold Image.byte
      congr 1; omega

/-- Sector `n` stands at its base. -/
theorem sectors_slice {c n : Nat} (h₁ : 1 ≤ n) (h₂ : n ≤ c) :
    (((List.range c).flatMap fun k => img.sector (k + 1)).drop (img.base n)).take (img.len n) =
      img.sector n := by
  have hb := img.base_add_len_le h₁ (show n < c + 1 by omega)
  have hl := img.sectors_length c
  refine List.ext_getElem (by rw [List.length_take, List.length_drop, hl, sector_length]; omega)
    fun i a b => ?_
  rw [sector_length] at b
  have hx := img.sectors_getD (c := c) (x := img.base n + i) (by omega)
  rw [List.getD_eq_getElem _ _ (by omega)] at hx
  have hs := img.sector_getD n i b
  rw [List.getD_eq_getElem _ _ (by rw [sector_length]; exact b)] at hs
  rw [List.getElem_take, List.getElem_drop, hx, hs]
  rfl

/-- A sector cut from data is the slice of the data at its base (43 R214). -/
theorem sector_ofData {size : SectorSize} {data : List Byte} {n : Nat}
    (h : (Image.ofData size data).has n = true) :
    (Image.ofData size data).sector n =
      (data.drop ((Image.ofData size data).base n)).take ((Image.ofData size data).len n) := by
  have hle := (Image.ofData size data).base_add_len_le_size h
  have hs := ofData_size_le size data
  refine List.ext_getElem (by simp; omega) fun k h₁ h₂ => ?_
  rw [sector_length] at h₁
  have hg := (Image.ofData size data).sector_getD n k h₁
  rw [List.getD_eq_getElem _ _ (by rw [sector_length]; exact h₁)] at hg
  rw [hg, Image.byte, ofData_mem, Memory.read_cells, if_pos (Nat.zero_le _), Nat.sub_zero,
    List.getD_eq_getElem _ _ (by rw [List.length_take]; omega), List.getElem_take, List.getElem_take,
    List.getElem_drop]

end Image
end Sys2Proof
end

