-- ==== Sys2Proof/Laws/State.lean ====
section
/-! SUPPORT. What each named update of the state leaves in each field, so that no later proof unfolds a record update. -/

namespace Sys2Proof.Machine

variable (s : State)

@[simp] theorem State.tx_fePhase (bs : List Byte) : (s.tx bs).fePhase = s.fePhase := rfl
@[simp] theorem State.tx_feN (bs : List Byte) : (s.tx bs).feN = s.feN := rfl
@[simp] theorem State.tx_feRemaining (bs : List Byte) : (s.tx bs).feRemaining = s.feRemaining := rfl
@[simp] theorem State.tx_feBuf (bs : List Byte) : (s.tx bs).feBuf = s.feBuf := rfl
@[simp] theorem State.tx_feLastRx (bs : List Byte) : (s.tx bs).feLastRx = s.feLastRx := rfl
@[simp] theorem State.tx_ckAcc (bs : List Byte) : (s.tx bs).ckAcc = s.ckAcc := rfl
@[simp] theorem State.tx_dpSlot (bs : List Byte) : (s.tx bs).dpSlot = s.dpSlot := rfl
@[simp] theorem State.tx_dpWp (bs : List Byte) : (s.tx bs).dpWp = s.dpWp := rfl
@[simp] theorem State.tx_dpDeferred (bs : List Byte) : (s.tx bs).dpDeferred = s.dpDeferred := rfl
@[simp] theorem State.tx_trOpen (bs : List Byte) : (s.tx bs).trOpen = s.trOpen := rfl
@[simp] theorem State.tx_disks (bs : List Byte) : (s.tx bs).disks = s.disks := rfl
@[simp] theorem State.tx_nextDisk (bs : List Byte) : (s.tx bs).nextDisk = s.nextDisk := rfl
@[simp] theorem State.tx_outTx (bs : List Byte) : (s.tx bs).outTx = s.outTx ++ [bs] := rfl
@[simp] theorem State.tx_outNote (bs : List Byte) : (s.tx bs).outNote = s.outNote := rfl
@[simp] theorem State.tx_outLog (bs : List Byte) : (s.tx bs).outLog = s.outLog := rfl
@[simp] theorem State.tx_params (bs : List Byte) : (s.tx bs).params = s.params := rfl
@[simp] theorem State.tx_inputs (bs : List Byte) : (s.tx bs).inputs = s.inputs := rfl
@[simp] theorem State.tx_ret (bs : List Byte) : (s.tx bs).ret = s.ret := rfl
@[simp] theorem State.tx_draws (bs : List Byte) : (s.tx bs).draws = s.draws := rfl

@[simp] theorem State.note_fePhase (e : Notification) : (s.note e).fePhase = s.fePhase := rfl
@[simp] theorem State.note_feN (e : Notification) : (s.note e).feN = s.feN := rfl
@[simp] theorem State.note_feRemaining (e : Notification) : (s.note e).feRemaining = s.feRemaining := rfl
@[simp] theorem State.note_feBuf (e : Notification) : (s.note e).feBuf = s.feBuf := rfl
@[simp] theorem State.note_feLastRx (e : Notification) : (s.note e).feLastRx = s.feLastRx := rfl
@[simp] theorem State.note_ckAcc (e : Notification) : (s.note e).ckAcc = s.ckAcc := rfl
@[simp] theorem State.note_dpSlot (e : Notification) : (s.note e).dpSlot = s.dpSlot := rfl
@[simp] theorem State.note_dpWp (e : Notification) : (s.note e).dpWp = s.dpWp := rfl
@[simp] theorem State.note_dpDeferred (e : Notification) : (s.note e).dpDeferred = s.dpDeferred := rfl
@[simp] theorem State.note_trOpen (e : Notification) : (s.note e).trOpen = s.trOpen := rfl
@[simp] theorem State.note_disks (e : Notification) : (s.note e).disks = s.disks := rfl
@[simp] theorem State.note_nextDisk (e : Notification) : (s.note e).nextDisk = s.nextDisk := rfl
@[simp] theorem State.note_outTx (e : Notification) : (s.note e).outTx = s.outTx := rfl
@[simp] theorem State.note_outNote (e : Notification) : (s.note e).outNote = s.outNote ++ [e] := rfl
@[simp] theorem State.note_outLog (e : Notification) : (s.note e).outLog = s.outLog := rfl
@[simp] theorem State.note_params (e : Notification) : (s.note e).params = s.params := rfl
@[simp] theorem State.note_inputs (e : Notification) : (s.note e).inputs = s.inputs := rfl
@[simp] theorem State.note_ret (e : Notification) : (s.note e).ret = s.ret := rfl
@[simp] theorem State.note_draws (e : Notification) : (s.note e).draws = s.draws := rfl

@[simp] theorem State.logged_fePhase (r : Reason) : (s.logged r).fePhase = s.fePhase := rfl
@[simp] theorem State.logged_feN (r : Reason) : (s.logged r).feN = s.feN := rfl
@[simp] theorem State.logged_feRemaining (r : Reason) : (s.logged r).feRemaining = s.feRemaining := rfl
@[simp] theorem State.logged_feBuf (r : Reason) : (s.logged r).feBuf = s.feBuf := rfl
@[simp] theorem State.logged_feLastRx (r : Reason) : (s.logged r).feLastRx = s.feLastRx := rfl
@[simp] theorem State.logged_ckAcc (r : Reason) : (s.logged r).ckAcc = s.ckAcc := rfl
@[simp] theorem State.logged_dpSlot (r : Reason) : (s.logged r).dpSlot = s.dpSlot := rfl
@[simp] theorem State.logged_dpWp (r : Reason) : (s.logged r).dpWp = s.dpWp := rfl
@[simp] theorem State.logged_dpDeferred (r : Reason) : (s.logged r).dpDeferred = s.dpDeferred := rfl
@[simp] theorem State.logged_trOpen (r : Reason) : (s.logged r).trOpen = s.trOpen := rfl
@[simp] theorem State.logged_disks (r : Reason) : (s.logged r).disks = s.disks := rfl
@[simp] theorem State.logged_nextDisk (r : Reason) : (s.logged r).nextDisk = s.nextDisk := rfl
@[simp] theorem State.logged_outTx (r : Reason) : (s.logged r).outTx = s.outTx := rfl
@[simp] theorem State.logged_outNote (r : Reason) : (s.logged r).outNote = s.outNote := rfl
@[simp] theorem State.logged_outLog (r : Reason) : (s.logged r).outLog = s.outLog ++ [r] := rfl
@[simp] theorem State.logged_params (r : Reason) : (s.logged r).params = s.params := rfl
@[simp] theorem State.logged_inputs (r : Reason) : (s.logged r).inputs = s.inputs := rfl
@[simp] theorem State.logged_ret (r : Reason) : (s.logged r).ret = s.ret := rfl
@[simp] theorem State.logged_draws (r : Reason) : (s.logged r).draws = s.draws := rfl

@[simp] theorem State.answer_fePhase (a : Answer) : (s.answer a).fePhase = s.fePhase := rfl
@[simp] theorem State.answer_feN (a : Answer) : (s.answer a).feN = s.feN := rfl
@[simp] theorem State.answer_feRemaining (a : Answer) : (s.answer a).feRemaining = s.feRemaining := rfl
@[simp] theorem State.answer_feBuf (a : Answer) : (s.answer a).feBuf = s.feBuf := rfl
@[simp] theorem State.answer_feLastRx (a : Answer) : (s.answer a).feLastRx = s.feLastRx := rfl
@[simp] theorem State.answer_ckAcc (a : Answer) : (s.answer a).ckAcc = s.ckAcc := rfl
@[simp] theorem State.answer_dpSlot (a : Answer) : (s.answer a).dpSlot = s.dpSlot := rfl
@[simp] theorem State.answer_dpWp (a : Answer) : (s.answer a).dpWp = s.dpWp := rfl
@[simp] theorem State.answer_dpDeferred (a : Answer) : (s.answer a).dpDeferred = s.dpDeferred := rfl
@[simp] theorem State.answer_trOpen (a : Answer) : (s.answer a).trOpen = s.trOpen := rfl
@[simp] theorem State.answer_disks (a : Answer) : (s.answer a).disks = s.disks := rfl
@[simp] theorem State.answer_nextDisk (a : Answer) : (s.answer a).nextDisk = s.nextDisk := rfl
@[simp] theorem State.answer_outTx (a : Answer) : (s.answer a).outTx = s.outTx := rfl
@[simp] theorem State.answer_outNote (a : Answer) : (s.answer a).outNote = s.outNote := rfl
@[simp] theorem State.answer_outLog (a : Answer) : (s.answer a).outLog = s.outLog := rfl
@[simp] theorem State.answer_params (a : Answer) : (s.answer a).params = s.params := rfl
@[simp] theorem State.answer_inputs (a : Answer) : (s.answer a).inputs = s.inputs := rfl
@[simp] theorem State.answer_ret (a : Answer) : (s.answer a).ret = a := rfl
@[simp] theorem State.answer_draws (a : Answer) : (s.answer a).draws = s.draws := rfl

@[simp] theorem State.done_fePhase : (s.done).fePhase = s.fePhase := rfl
@[simp] theorem State.done_feN : (s.done).feN = s.feN := rfl
@[simp] theorem State.done_feRemaining : (s.done).feRemaining = s.feRemaining := rfl
@[simp] theorem State.done_feBuf : (s.done).feBuf = s.feBuf := rfl
@[simp] theorem State.done_feLastRx : (s.done).feLastRx = s.feLastRx := rfl
@[simp] theorem State.done_ckAcc : (s.done).ckAcc = s.ckAcc := rfl
@[simp] theorem State.done_dpSlot : (s.done).dpSlot = s.dpSlot := rfl
@[simp] theorem State.done_dpWp : (s.done).dpWp = s.dpWp := rfl
@[simp] theorem State.done_dpDeferred : (s.done).dpDeferred = s.dpDeferred := rfl
@[simp] theorem State.done_trOpen : (s.done).trOpen = s.trOpen := rfl
@[simp] theorem State.done_disks : (s.done).disks = s.disks := rfl
@[simp] theorem State.done_nextDisk : (s.done).nextDisk = s.nextDisk := rfl
@[simp] theorem State.done_outTx : (s.done).outTx = s.outTx := rfl
@[simp] theorem State.done_outNote : (s.done).outNote = s.outNote := rfl
@[simp] theorem State.done_outLog : (s.done).outLog = s.outLog := rfl
@[simp] theorem State.done_params : (s.done).params = s.params := rfl
@[simp] theorem State.done_inputs : (s.done).inputs = s.inputs := rfl
@[simp] theorem State.done_ret : (s.done).ret = .done := rfl
@[simp] theorem State.done_draws : (s.done).draws = s.draws := rfl

@[simp] theorem State.defer_fePhase (due : Time) (bs : List Byte) : (s.defer due bs).fePhase = s.fePhase := rfl
@[simp] theorem State.defer_feN (due : Time) (bs : List Byte) : (s.defer due bs).feN = s.feN := rfl
@[simp] theorem State.defer_feRemaining (due : Time) (bs : List Byte) : (s.defer due bs).feRemaining = s.feRemaining := rfl
@[simp] theorem State.defer_feBuf (due : Time) (bs : List Byte) : (s.defer due bs).feBuf = s.feBuf := rfl
@[simp] theorem State.defer_feLastRx (due : Time) (bs : List Byte) : (s.defer due bs).feLastRx = s.feLastRx := rfl
@[simp] theorem State.defer_ckAcc (due : Time) (bs : List Byte) : (s.defer due bs).ckAcc = s.ckAcc := rfl
@[simp] theorem State.defer_dpSlot (due : Time) (bs : List Byte) : (s.defer due bs).dpSlot = s.dpSlot := rfl
@[simp] theorem State.defer_dpWp (due : Time) (bs : List Byte) : (s.defer due bs).dpWp = s.dpWp := rfl
@[simp] theorem State.defer_dpDeferred (due : Time) (bs : List Byte) : (s.defer due bs).dpDeferred = s.dpDeferred ++ [⟨due, bs⟩] := rfl
@[simp] theorem State.defer_trOpen (due : Time) (bs : List Byte) : (s.defer due bs).trOpen = s.trOpen := rfl
@[simp] theorem State.defer_disks (due : Time) (bs : List Byte) : (s.defer due bs).disks = s.disks := rfl
@[simp] theorem State.defer_nextDisk (due : Time) (bs : List Byte) : (s.defer due bs).nextDisk = s.nextDisk := rfl
@[simp] theorem State.defer_outTx (due : Time) (bs : List Byte) : (s.defer due bs).outTx = s.outTx := rfl
@[simp] theorem State.defer_outNote (due : Time) (bs : List Byte) : (s.defer due bs).outNote = s.outNote := rfl
@[simp] theorem State.defer_outLog (due : Time) (bs : List Byte) : (s.defer due bs).outLog = s.outLog := rfl
@[simp] theorem State.defer_params (due : Time) (bs : List Byte) : (s.defer due bs).params = s.params := rfl
@[simp] theorem State.defer_inputs (due : Time) (bs : List Byte) : (s.defer due bs).inputs = s.inputs := rfl
@[simp] theorem State.defer_ret (due : Time) (bs : List Byte) : (s.defer due bs).ret = s.ret := rfl
@[simp] theorem State.defer_draws (due : Time) (bs : List Byte) : (s.defer due bs).draws = s.draws := rfl

@[simp] theorem State.setWp_fePhase (v : Option WritePending) : (s.setWp v).fePhase = s.fePhase := rfl
@[simp] theorem State.setWp_feN (v : Option WritePending) : (s.setWp v).feN = s.feN := rfl
@[simp] theorem State.setWp_feRemaining (v : Option WritePending) : (s.setWp v).feRemaining = s.feRemaining := rfl
@[simp] theorem State.setWp_feBuf (v : Option WritePending) : (s.setWp v).feBuf = s.feBuf := rfl
@[simp] theorem State.setWp_feLastRx (v : Option WritePending) : (s.setWp v).feLastRx = s.feLastRx := rfl
@[simp] theorem State.setWp_ckAcc (v : Option WritePending) : (s.setWp v).ckAcc = s.ckAcc := rfl
@[simp] theorem State.setWp_dpSlot (v : Option WritePending) : (s.setWp v).dpSlot = s.dpSlot := rfl
@[simp] theorem State.setWp_dpWp (v : Option WritePending) : (s.setWp v).dpWp = v := rfl
@[simp] theorem State.setWp_dpDeferred (v : Option WritePending) : (s.setWp v).dpDeferred = s.dpDeferred := rfl
@[simp] theorem State.setWp_trOpen (v : Option WritePending) : (s.setWp v).trOpen = s.trOpen := rfl
@[simp] theorem State.setWp_disks (v : Option WritePending) : (s.setWp v).disks = s.disks := rfl
@[simp] theorem State.setWp_nextDisk (v : Option WritePending) : (s.setWp v).nextDisk = s.nextDisk := rfl
@[simp] theorem State.setWp_outTx (v : Option WritePending) : (s.setWp v).outTx = s.outTx := rfl
@[simp] theorem State.setWp_outNote (v : Option WritePending) : (s.setWp v).outNote = s.outNote := rfl
@[simp] theorem State.setWp_outLog (v : Option WritePending) : (s.setWp v).outLog = s.outLog := rfl
@[simp] theorem State.setWp_params (v : Option WritePending) : (s.setWp v).params = s.params := rfl
@[simp] theorem State.setWp_inputs (v : Option WritePending) : (s.setWp v).inputs = s.inputs := rfl
@[simp] theorem State.setWp_ret (v : Option WritePending) : (s.setWp v).ret = s.ret := rfl
@[simp] theorem State.setWp_draws (v : Option WritePending) : (s.setWp v).draws = s.draws := rfl

@[simp] theorem State.feReset_fePhase : (s.feReset).fePhase = .awaitLen := rfl
@[simp] theorem State.feReset_feN : (s.feReset).feN = s.feN := rfl
@[simp] theorem State.feReset_feRemaining : (s.feReset).feRemaining = s.feRemaining := rfl
@[simp] theorem State.feReset_feBuf : (s.feReset).feBuf = [] := rfl
@[simp] theorem State.feReset_feLastRx : (s.feReset).feLastRx = s.feLastRx := rfl
@[simp] theorem State.feReset_ckAcc : (s.feReset).ckAcc = s.ckAcc := rfl
@[simp] theorem State.feReset_dpSlot : (s.feReset).dpSlot = s.dpSlot := rfl
@[simp] theorem State.feReset_dpWp : (s.feReset).dpWp = s.dpWp := rfl
@[simp] theorem State.feReset_dpDeferred : (s.feReset).dpDeferred = s.dpDeferred := rfl
@[simp] theorem State.feReset_trOpen : (s.feReset).trOpen = s.trOpen := rfl
@[simp] theorem State.feReset_disks : (s.feReset).disks = s.disks := rfl
@[simp] theorem State.feReset_nextDisk : (s.feReset).nextDisk = s.nextDisk := rfl
@[simp] theorem State.feReset_outTx : (s.feReset).outTx = s.outTx := rfl
@[simp] theorem State.feReset_outNote : (s.feReset).outNote = s.outNote := rfl
@[simp] theorem State.feReset_outLog : (s.feReset).outLog = s.outLog := rfl
@[simp] theorem State.feReset_params : (s.feReset).params = s.params := rfl
@[simp] theorem State.feReset_inputs : (s.feReset).inputs = s.inputs := rfl
@[simp] theorem State.feReset_ret : (s.feReset).ret = s.ret := rfl
@[simp] theorem State.feReset_draws : (s.feReset).draws = s.draws := rfl

@[simp] theorem State.evalChecksum_fePhase (bs : List Byte) : (s.evalChecksum bs).fePhase = s.fePhase := rfl
@[simp] theorem State.evalChecksum_feN (bs : List Byte) : (s.evalChecksum bs).feN = s.feN := rfl
@[simp] theorem State.evalChecksum_feRemaining (bs : List Byte) : (s.evalChecksum bs).feRemaining = s.feRemaining := rfl
@[simp] theorem State.evalChecksum_feBuf (bs : List Byte) : (s.evalChecksum bs).feBuf = s.feBuf := rfl
@[simp] theorem State.evalChecksum_feLastRx (bs : List Byte) : (s.evalChecksum bs).feLastRx = s.feLastRx := rfl
@[simp] theorem State.evalChecksum_ckAcc (bs : List Byte) : (s.evalChecksum bs).ckAcc = checksumAcc bs := rfl
@[simp] theorem State.evalChecksum_dpSlot (bs : List Byte) : (s.evalChecksum bs).dpSlot = s.dpSlot := rfl
@[simp] theorem State.evalChecksum_dpWp (bs : List Byte) : (s.evalChecksum bs).dpWp = s.dpWp := rfl
@[simp] theorem State.evalChecksum_dpDeferred (bs : List Byte) : (s.evalChecksum bs).dpDeferred = s.dpDeferred := rfl
@[simp] theorem State.evalChecksum_trOpen (bs : List Byte) : (s.evalChecksum bs).trOpen = s.trOpen := rfl
@[simp] theorem State.evalChecksum_disks (bs : List Byte) : (s.evalChecksum bs).disks = s.disks := rfl
@[simp] theorem State.evalChecksum_nextDisk (bs : List Byte) : (s.evalChecksum bs).nextDisk = s.nextDisk := rfl
@[simp] theorem State.evalChecksum_outTx (bs : List Byte) : (s.evalChecksum bs).outTx = s.outTx := rfl
@[simp] theorem State.evalChecksum_outNote (bs : List Byte) : (s.evalChecksum bs).outNote = s.outNote := rfl
@[simp] theorem State.evalChecksum_outLog (bs : List Byte) : (s.evalChecksum bs).outLog = s.outLog := rfl
@[simp] theorem State.evalChecksum_params (bs : List Byte) : (s.evalChecksum bs).params = s.params := rfl
@[simp] theorem State.evalChecksum_inputs (bs : List Byte) : (s.evalChecksum bs).inputs = s.inputs := rfl
@[simp] theorem State.evalChecksum_ret (bs : List Byte) : (s.evalChecksum bs).ret = s.ret := rfl
@[simp] theorem State.evalChecksum_draws (bs : List Byte) : (s.evalChecksum bs).draws = s.draws := rfl

@[simp] theorem State.drawn_fePhase : (s.drawn).fePhase = s.fePhase := rfl
@[simp] theorem State.drawn_feN : (s.drawn).feN = s.feN := rfl
@[simp] theorem State.drawn_feRemaining : (s.drawn).feRemaining = s.feRemaining := rfl
@[simp] theorem State.drawn_feBuf : (s.drawn).feBuf = s.feBuf := rfl
@[simp] theorem State.drawn_feLastRx : (s.drawn).feLastRx = s.feLastRx := rfl
@[simp] theorem State.drawn_ckAcc : (s.drawn).ckAcc = s.ckAcc := rfl
@[simp] theorem State.drawn_dpSlot : (s.drawn).dpSlot = s.dpSlot := rfl
@[simp] theorem State.drawn_dpWp : (s.drawn).dpWp = s.dpWp := rfl
@[simp] theorem State.drawn_dpDeferred : (s.drawn).dpDeferred = s.dpDeferred := rfl
@[simp] theorem State.drawn_trOpen : (s.drawn).trOpen = s.trOpen := rfl
@[simp] theorem State.drawn_disks : (s.drawn).disks = s.disks := rfl
@[simp] theorem State.drawn_nextDisk : (s.drawn).nextDisk = s.nextDisk := rfl
@[simp] theorem State.drawn_outTx : (s.drawn).outTx = s.outTx := rfl
@[simp] theorem State.drawn_outNote : (s.drawn).outNote = s.outNote := rfl
@[simp] theorem State.drawn_outLog : (s.drawn).outLog = s.outLog := rfl
@[simp] theorem State.drawn_params : (s.drawn).params = s.params := rfl
@[simp] theorem State.drawn_inputs : (s.drawn).inputs = s.inputs := rfl
@[simp] theorem State.drawn_ret : (s.drawn).ret = s.ret := rfl
@[simp] theorem State.drawn_draws : (s.drawn).draws = s.draws + 1 := rfl

@[simp] theorem State.sendCode_fePhase (c : ReplyCode) : (s.sendCode c).fePhase = s.fePhase := rfl
@[simp] theorem State.sendCode_feN (c : ReplyCode) : (s.sendCode c).feN = s.feN := rfl
@[simp] theorem State.sendCode_feRemaining (c : ReplyCode) : (s.sendCode c).feRemaining = s.feRemaining := rfl
@[simp] theorem State.sendCode_feBuf (c : ReplyCode) : (s.sendCode c).feBuf = s.feBuf := rfl
@[simp] theorem State.sendCode_feLastRx (c : ReplyCode) : (s.sendCode c).feLastRx = s.feLastRx := rfl
@[simp] theorem State.sendCode_ckAcc (c : ReplyCode) : (s.sendCode c).ckAcc = s.ckAcc := rfl
@[simp] theorem State.sendCode_dpSlot (c : ReplyCode) : (s.sendCode c).dpSlot = s.dpSlot := rfl
@[simp] theorem State.sendCode_dpWp (c : ReplyCode) : (s.sendCode c).dpWp = s.dpWp := rfl
@[simp] theorem State.sendCode_dpDeferred (c : ReplyCode) : (s.sendCode c).dpDeferred = s.dpDeferred := rfl
@[simp] theorem State.sendCode_trOpen (c : ReplyCode) : (s.sendCode c).trOpen = s.trOpen := rfl
@[simp] theorem State.sendCode_disks (c : ReplyCode) : (s.sendCode c).disks = s.disks := rfl
@[simp] theorem State.sendCode_nextDisk (c : ReplyCode) : (s.sendCode c).nextDisk = s.nextDisk := rfl
@[simp] theorem State.sendCode_outTx (c : ReplyCode) : (s.sendCode c).outTx = s.outTx ++ [[c.byte]] := rfl
@[simp] theorem State.sendCode_outNote (c : ReplyCode) : (s.sendCode c).outNote = s.outNote := rfl
@[simp] theorem State.sendCode_outLog (c : ReplyCode) : (s.sendCode c).outLog = s.outLog := rfl
@[simp] theorem State.sendCode_params (c : ReplyCode) : (s.sendCode c).params = s.params := rfl
@[simp] theorem State.sendCode_inputs (c : ReplyCode) : (s.sendCode c).inputs = s.inputs := rfl
@[simp] theorem State.sendCode_ret (c : ReplyCode) : (s.sendCode c).ret = s.ret := rfl
@[simp] theorem State.sendCode_draws (c : ReplyCode) : (s.sendCode c).draws = s.draws := rfl

@[simp] theorem State.sendPayload_fePhase (p : List Byte) : (s.sendPayload p).fePhase = s.fePhase := rfl
@[simp] theorem State.sendPayload_feN (p : List Byte) : (s.sendPayload p).feN = s.feN := rfl
@[simp] theorem State.sendPayload_feRemaining (p : List Byte) : (s.sendPayload p).feRemaining = s.feRemaining := rfl
@[simp] theorem State.sendPayload_feBuf (p : List Byte) : (s.sendPayload p).feBuf = s.feBuf := rfl
@[simp] theorem State.sendPayload_feLastRx (p : List Byte) : (s.sendPayload p).feLastRx = s.feLastRx := rfl
@[simp] theorem State.sendPayload_ckAcc (p : List Byte) : (s.sendPayload p).ckAcc = checksumAcc p := rfl
@[simp] theorem State.sendPayload_dpSlot (p : List Byte) : (s.sendPayload p).dpSlot = s.dpSlot := rfl
@[simp] theorem State.sendPayload_dpWp (p : List Byte) : (s.sendPayload p).dpWp = s.dpWp := rfl
@[simp] theorem State.sendPayload_dpDeferred (p : List Byte) : (s.sendPayload p).dpDeferred = s.dpDeferred := rfl
@[simp] theorem State.sendPayload_trOpen (p : List Byte) : (s.sendPayload p).trOpen = s.trOpen := rfl
@[simp] theorem State.sendPayload_disks (p : List Byte) : (s.sendPayload p).disks = s.disks := rfl
@[simp] theorem State.sendPayload_nextDisk (p : List Byte) : (s.sendPayload p).nextDisk = s.nextDisk := rfl
@[simp] theorem State.sendPayload_outTx (p : List Byte) : (s.sendPayload p).outTx = s.outTx ++ [replyFrame s.params.variant p] := rfl
@[simp] theorem State.sendPayload_outNote (p : List Byte) : (s.sendPayload p).outNote = s.outNote := rfl
@[simp] theorem State.sendPayload_outLog (p : List Byte) : (s.sendPayload p).outLog = s.outLog := rfl
@[simp] theorem State.sendPayload_params (p : List Byte) : (s.sendPayload p).params = s.params := rfl
@[simp] theorem State.sendPayload_inputs (p : List Byte) : (s.sendPayload p).inputs = s.inputs := rfl
@[simp] theorem State.sendPayload_ret (p : List Byte) : (s.sendPayload p).ret = s.ret := rfl
@[simp] theorem State.sendPayload_draws (p : List Byte) : (s.sendPayload p).draws = s.draws := rfl

@[simp] theorem State.replyError_fePhase (r : Reason) : (s.replyError r).fePhase = s.fePhase := rfl
@[simp] theorem State.replyError_feN (r : Reason) : (s.replyError r).feN = s.feN := rfl
@[simp] theorem State.replyError_feRemaining (r : Reason) : (s.replyError r).feRemaining = s.feRemaining := rfl
@[simp] theorem State.replyError_feBuf (r : Reason) : (s.replyError r).feBuf = s.feBuf := rfl
@[simp] theorem State.replyError_feLastRx (r : Reason) : (s.replyError r).feLastRx = s.feLastRx := rfl
@[simp] theorem State.replyError_ckAcc (r : Reason) : (s.replyError r).ckAcc = s.ckAcc := rfl
@[simp] theorem State.replyError_dpSlot (r : Reason) : (s.replyError r).dpSlot = s.dpSlot := rfl
@[simp] theorem State.replyError_dpWp (r : Reason) : (s.replyError r).dpWp = s.dpWp := rfl
@[simp] theorem State.replyError_dpDeferred (r : Reason) : (s.replyError r).dpDeferred = s.dpDeferred := rfl
@[simp] theorem State.replyError_trOpen (r : Reason) : (s.replyError r).trOpen = s.trOpen := rfl
@[simp] theorem State.replyError_disks (r : Reason) : (s.replyError r).disks = s.disks := rfl
@[simp] theorem State.replyError_nextDisk (r : Reason) : (s.replyError r).nextDisk = s.nextDisk := rfl
@[simp] theorem State.replyError_outTx (r : Reason) : (s.replyError r).outTx = s.outTx ++ [[0x45]] := rfl
@[simp] theorem State.replyError_outNote (r : Reason) : (s.replyError r).outNote = s.outNote := rfl
@[simp] theorem State.replyError_outLog (r : Reason) : (s.replyError r).outLog = s.outLog ++ [r] := rfl
@[simp] theorem State.replyError_params (r : Reason) : (s.replyError r).params = s.params := rfl
@[simp] theorem State.replyError_inputs (r : Reason) : (s.replyError r).inputs = s.inputs := rfl
@[simp] theorem State.replyError_ret (r : Reason) : (s.replyError r).ret = .done := rfl
@[simp] theorem State.replyError_draws (r : Reason) : (s.replyError r).draws = s.draws := rfl

@[simp] theorem State.raised_fePhase (r : Reason) : (s.raised r).fePhase = s.fePhase := rfl
@[simp] theorem State.raised_feN (r : Reason) : (s.raised r).feN = s.feN := rfl
@[simp] theorem State.raised_feRemaining (r : Reason) : (s.raised r).feRemaining = s.feRemaining := rfl
@[simp] theorem State.raised_feBuf (r : Reason) : (s.raised r).feBuf = s.feBuf := rfl
@[simp] theorem State.raised_feLastRx (r : Reason) : (s.raised r).feLastRx = s.feLastRx := rfl
@[simp] theorem State.raised_ckAcc (r : Reason) : (s.raised r).ckAcc = s.ckAcc := rfl
@[simp] theorem State.raised_dpSlot (r : Reason) : (s.raised r).dpSlot = s.dpSlot := rfl
@[simp] theorem State.raised_dpWp (r : Reason) : (s.raised r).dpWp = s.dpWp := rfl
@[simp] theorem State.raised_dpDeferred (r : Reason) : (s.raised r).dpDeferred = s.dpDeferred := rfl
@[simp] theorem State.raised_trOpen (r : Reason) : (s.raised r).trOpen = s.trOpen := rfl
@[simp] theorem State.raised_disks (r : Reason) : (s.raised r).disks = s.disks := rfl
@[simp] theorem State.raised_nextDisk (r : Reason) : (s.raised r).nextDisk = s.nextDisk := rfl
@[simp] theorem State.raised_outTx (r : Reason) : (s.raised r).outTx = s.outTx := rfl
@[simp] theorem State.raised_outNote (r : Reason) : (s.raised r).outNote = s.outNote := rfl
@[simp] theorem State.raised_outLog (r : Reason) : (s.raised r).outLog = s.outLog := rfl
@[simp] theorem State.raised_params (r : Reason) : (s.raised r).params = s.params := rfl
@[simp] theorem State.raised_inputs (r : Reason) : (s.raised r).inputs = s.inputs := rfl
@[simp] theorem State.raised_ret (r : Reason) : (s.raised r).ret = answerOf r := rfl
@[simp] theorem State.raised_draws (r : Reason) : (s.raised r).draws = s.draws := rfl

@[simp] theorem State.setImage_fePhase (d : DiskId) (img : Image) : (s.setImage d img).fePhase = s.fePhase := rfl
@[simp] theorem State.setImage_feN (d : DiskId) (img : Image) : (s.setImage d img).feN = s.feN := rfl
@[simp] theorem State.setImage_feRemaining (d : DiskId) (img : Image) : (s.setImage d img).feRemaining = s.feRemaining := rfl
@[simp] theorem State.setImage_feBuf (d : DiskId) (img : Image) : (s.setImage d img).feBuf = s.feBuf := rfl
@[simp] theorem State.setImage_feLastRx (d : DiskId) (img : Image) : (s.setImage d img).feLastRx = s.feLastRx := rfl
@[simp] theorem State.setImage_ckAcc (d : DiskId) (img : Image) : (s.setImage d img).ckAcc = s.ckAcc := rfl
@[simp] theorem State.setImage_dpSlot (d : DiskId) (img : Image) : (s.setImage d img).dpSlot = s.dpSlot := rfl
@[simp] theorem State.setImage_dpWp (d : DiskId) (img : Image) : (s.setImage d img).dpWp = s.dpWp := rfl
@[simp] theorem State.setImage_dpDeferred (d : DiskId) (img : Image) : (s.setImage d img).dpDeferred = s.dpDeferred := rfl
@[simp] theorem State.setImage_trOpen (d : DiskId) (img : Image) : (s.setImage d img).trOpen = s.trOpen := rfl
@[simp] theorem State.setImage_disks (d : DiskId) (img : Image) : (s.setImage d img).disks = replaceDisk s.disks d img := rfl
@[simp] theorem State.setImage_nextDisk (d : DiskId) (img : Image) : (s.setImage d img).nextDisk = s.nextDisk := rfl
@[simp] theorem State.setImage_outTx (d : DiskId) (img : Image) : (s.setImage d img).outTx = s.outTx := rfl
@[simp] theorem State.setImage_outNote (d : DiskId) (img : Image) : (s.setImage d img).outNote = s.outNote := rfl
@[simp] theorem State.setImage_outLog (d : DiskId) (img : Image) : (s.setImage d img).outLog = s.outLog := rfl
@[simp] theorem State.setImage_params (d : DiskId) (img : Image) : (s.setImage d img).params = s.params := rfl
@[simp] theorem State.setImage_inputs (d : DiskId) (img : Image) : (s.setImage d img).inputs = s.inputs := rfl
@[simp] theorem State.setImage_ret (d : DiskId) (img : Image) : (s.setImage d img).ret = s.ret := rfl
@[simp] theorem State.setImage_draws (d : DiskId) (img : Image) : (s.setImage d img).draws = s.draws := rfl

@[simp] theorem State.addImage_fePhase (img : Image) : (s.addImage img).fePhase = s.fePhase := rfl
@[simp] theorem State.addImage_feN (img : Image) : (s.addImage img).feN = s.feN := rfl
@[simp] theorem State.addImage_feRemaining (img : Image) : (s.addImage img).feRemaining = s.feRemaining := rfl
@[simp] theorem State.addImage_feBuf (img : Image) : (s.addImage img).feBuf = s.feBuf := rfl
@[simp] theorem State.addImage_feLastRx (img : Image) : (s.addImage img).feLastRx = s.feLastRx := rfl
@[simp] theorem State.addImage_ckAcc (img : Image) : (s.addImage img).ckAcc = s.ckAcc := rfl
@[simp] theorem State.addImage_dpSlot (img : Image) : (s.addImage img).dpSlot = s.dpSlot := rfl
@[simp] theorem State.addImage_dpWp (img : Image) : (s.addImage img).dpWp = s.dpWp := rfl
@[simp] theorem State.addImage_dpDeferred (img : Image) : (s.addImage img).dpDeferred = s.dpDeferred := rfl
@[simp] theorem State.addImage_trOpen (img : Image) : (s.addImage img).trOpen = s.trOpen := rfl
@[simp] theorem State.addImage_disks (img : Image) : (s.addImage img).disks = s.disks ++ [(s.nextDisk, img)] := rfl
@[simp] theorem State.addImage_nextDisk (img : Image) : (s.addImage img).nextDisk = s.nextDisk + 1 := rfl
@[simp] theorem State.addImage_outTx (img : Image) : (s.addImage img).outTx = s.outTx := rfl
@[simp] theorem State.addImage_outNote (img : Image) : (s.addImage img).outNote = s.outNote := rfl
@[simp] theorem State.addImage_outLog (img : Image) : (s.addImage img).outLog = s.outLog := rfl
@[simp] theorem State.addImage_params (img : Image) : (s.addImage img).params = s.params := rfl
@[simp] theorem State.addImage_inputs (img : Image) : (s.addImage img).inputs = s.inputs := rfl
@[simp] theorem State.addImage_ret (img : Image) : (s.addImage img).ret = s.ret := rfl
@[simp] theorem State.addImage_draws (img : Image) : (s.addImage img).draws = s.draws := rfl

@[simp] theorem State.unmounted_fePhase (d : DiskId) : (s.unmounted d).fePhase = s.fePhase := rfl
@[simp] theorem State.unmounted_feN (d : DiskId) : (s.unmounted d).feN = s.feN := rfl
@[simp] theorem State.unmounted_feRemaining (d : DiskId) : (s.unmounted d).feRemaining = s.feRemaining := rfl
@[simp] theorem State.unmounted_feBuf (d : DiskId) : (s.unmounted d).feBuf = s.feBuf := rfl
@[simp] theorem State.unmounted_feLastRx (d : DiskId) : (s.unmounted d).feLastRx = s.feLastRx := rfl
@[simp] theorem State.unmounted_ckAcc (d : DiskId) : (s.unmounted d).ckAcc = s.ckAcc := rfl
@[simp] theorem State.unmounted_dpSlot (d : DiskId) : (s.unmounted d).dpSlot = s.dpSlot.clear d := rfl
@[simp] theorem State.unmounted_dpWp (d : DiskId) : (s.unmounted d).dpWp = s.dpWp := rfl
@[simp] theorem State.unmounted_dpDeferred (d : DiskId) : (s.unmounted d).dpDeferred = s.dpDeferred := rfl
@[simp] theorem State.unmounted_trOpen (d : DiskId) : (s.unmounted d).trOpen = s.trOpen := rfl
@[simp] theorem State.unmounted_disks (d : DiskId) : (s.unmounted d).disks = s.disks := rfl
@[simp] theorem State.unmounted_nextDisk (d : DiskId) : (s.unmounted d).nextDisk = s.nextDisk := rfl
@[simp] theorem State.unmounted_outTx (d : DiskId) : (s.unmounted d).outTx = s.outTx := rfl
@[simp] theorem State.unmounted_outNote (d : DiskId) : (s.unmounted d).outNote = s.outNote ++ [.mountChanged] := rfl
@[simp] theorem State.unmounted_outLog (d : DiskId) : (s.unmounted d).outLog = s.outLog := rfl
@[simp] theorem State.unmounted_params (d : DiskId) : (s.unmounted d).params = s.params := rfl
@[simp] theorem State.unmounted_inputs (d : DiskId) : (s.unmounted d).inputs = s.inputs := rfl
@[simp] theorem State.unmounted_ret (d : DiskId) : (s.unmounted d).ret = s.ret := rfl
@[simp] theorem State.unmounted_draws (d : DiskId) : (s.unmounted d).draws = s.draws := rfl

@[simp] theorem State.received_fePhase (now : Time) : (s.received now).fePhase = s.fePhase := rfl
@[simp] theorem State.received_feN (now : Time) : (s.received now).feN = s.feN := rfl
@[simp] theorem State.received_feRemaining (now : Time) : (s.received now).feRemaining = s.feRemaining := rfl
@[simp] theorem State.received_feBuf (now : Time) : (s.received now).feBuf = s.feBuf := rfl
@[simp] theorem State.received_feLastRx (now : Time) : (s.received now).feLastRx = some now := rfl
@[simp] theorem State.received_ckAcc (now : Time) : (s.received now).ckAcc = s.ckAcc := rfl
@[simp] theorem State.received_dpSlot (now : Time) : (s.received now).dpSlot = s.dpSlot := rfl
@[simp] theorem State.received_dpWp (now : Time) : (s.received now).dpWp = s.dpWp := rfl
@[simp] theorem State.received_dpDeferred (now : Time) : (s.received now).dpDeferred = s.dpDeferred := rfl
@[simp] theorem State.received_trOpen (now : Time) : (s.received now).trOpen = s.trOpen := rfl
@[simp] theorem State.received_disks (now : Time) : (s.received now).disks = s.disks := rfl
@[simp] theorem State.received_nextDisk (now : Time) : (s.received now).nextDisk = s.nextDisk := rfl
@[simp] theorem State.received_outTx (now : Time) : (s.received now).outTx = s.outTx := rfl
@[simp] theorem State.received_outNote (now : Time) : (s.received now).outNote = s.outNote := rfl
@[simp] theorem State.received_outLog (now : Time) : (s.received now).outLog = s.outLog := rfl
@[simp] theorem State.received_params (now : Time) : (s.received now).params = s.params := rfl
@[simp] theorem State.received_inputs (now : Time) : (s.received now).inputs = s.inputs := rfl
@[simp] theorem State.received_ret (now : Time) : (s.received now).ret = s.ret := rfl
@[simp] theorem State.received_draws (now : Time) : (s.received now).draws = s.draws := rfl

@[simp] theorem State.pending_fePhase (f : Format) (now : Time) (bs : List Byte) : (s.pending f now bs).fePhase = s.fePhase := rfl
@[simp] theorem State.pending_feN (f : Format) (now : Time) (bs : List Byte) : (s.pending f now bs).feN = s.feN := rfl
@[simp] theorem State.pending_feRemaining (f : Format) (now : Time) (bs : List Byte) : (s.pending f now bs).feRemaining = s.feRemaining := rfl
@[simp] theorem State.pending_feBuf (f : Format) (now : Time) (bs : List Byte) : (s.pending f now bs).feBuf = s.feBuf := rfl
@[simp] theorem State.pending_feLastRx (f : Format) (now : Time) (bs : List Byte) : (s.pending f now bs).feLastRx = s.feLastRx := rfl
@[simp] theorem State.pending_ckAcc (f : Format) (now : Time) (bs : List Byte) : (s.pending f now bs).ckAcc = s.ckAcc := rfl
@[simp] theorem State.pending_dpSlot (f : Format) (now : Time) (bs : List Byte) : (s.pending f now bs).dpSlot = s.dpSlot := rfl
@[simp] theorem State.pending_dpWp (f : Format) (now : Time) (bs : List Byte) : (s.pending f now bs).dpWp = s.dpWp := rfl
@[simp] theorem State.pending_dpDeferred (f : Format) (now : Time) (bs : List Byte) : (s.pending f now bs).dpDeferred = s.dpDeferred := rfl
@[simp] theorem State.pending_trOpen (f : Format) (now : Time) (bs : List Byte) : (s.pending f now bs).trOpen = s.trOpen := rfl
@[simp] theorem State.pending_disks (f : Format) (now : Time) (bs : List Byte) : (s.pending f now bs).disks = s.disks := rfl
@[simp] theorem State.pending_nextDisk (f : Format) (now : Time) (bs : List Byte) : (s.pending f now bs).nextDisk = s.nextDisk := rfl
@[simp] theorem State.pending_outTx (f : Format) (now : Time) (bs : List Byte) : (s.pending f now bs).outTx = s.outTx := rfl
@[simp] theorem State.pending_outNote (f : Format) (now : Time) (bs : List Byte) : (s.pending f now bs).outNote = s.outNote := rfl
@[simp] theorem State.pending_outLog (f : Format) (now : Time) (bs : List Byte) : (s.pending f now bs).outLog = s.outLog := rfl
@[simp] theorem State.pending_params (f : Format) (now : Time) (bs : List Byte) : (s.pending f now bs).params = s.params := rfl
@[simp] theorem State.pending_inputs (f : Format) (now : Time) (bs : List Byte) : (s.pending f now bs).inputs = .encoded f now bs :: s.inputs := rfl
@[simp] theorem State.pending_ret (f : Format) (now : Time) (bs : List Byte) : (s.pending f now bs).ret = s.ret := rfl
@[simp] theorem State.pending_draws (f : Format) (now : Time) (bs : List Byte) : (s.pending f now bs).draws = s.draws := rfl

end Sys2Proof.Machine
end

