-- ==== Sys2Proof/Laws/Ops.lean ====
section
/-! SUPPORT. For each shared operation, once, everything it can do. -/

namespace Sys2Proof.Machine

/-! The drive slot table. -/

/-- There is no slot outside 0..7. -/
theorem Slots.get_none (t : Slots) (k : Nat) (h : 8 ≤ k) : t.get k = none := by
  match k, h with
  | k + 8, _ => rfl

theorem Slots.lt_of_get {t : Slots} {k : Nat} {d : DiskId} (h : t.get k = some d) : k < 8 := by
  by_contra hk
  rw [Slots.get_none t k (by omega)] at h
  cases h

/-- Reading a slot after a write to a slot. -/
theorem Slots.get_put (t : Slots) (k j : Nat) (v : Option DiskId) (hk : k < 8) :
    (t.put k v).get j = if j = k then v else t.get j := by
  have : k = 0 ∨ k = 1 ∨ k = 2 ∨ k = 3 ∨ k = 4 ∨ k = 5 ∨ k = 6 ∨ k = 7 := by omega
  rcases Nat.lt_or_ge j 8 with hj | hj
  · have hj' : j = 0 ∨ j = 1 ∨ j = 2 ∨ j = 3 ∨ j = 4 ∨ j = 5 ∨ j = 6 ∨ j = 7 := by omega
    rcases this with rfl | rfl | rfl | rfl | rfl | rfl | rfl | rfl <;>
      rcases hj' with rfl | rfl | rfl | rfl | rfl | rfl | rfl | rfl <;> rfl
  · rw [Slots.get_none _ j hj, Slots.get_none _ j hj, if_neg (by omega)]

/-- Reading a slot after a disk has been taken out of the table. -/
theorem Slots.get_clear (t : Slots) (d : DiskId) (k : Nat) : (t.clear d).get k = dropDisk d (t.get k) := by
  rcases Nat.lt_or_ge k 8 with hk | hk
  · have : k = 0 ∨ k = 1 ∨ k = 2 ∨ k = 3 ∨ k = 4 ∨ k = 5 ∨ k = 6 ∨ k = 7 := by omega
    rcases this with rfl | rfl | rfl | rfl | rfl | rfl | rfl | rfl <;> rfl
  · rw [Slots.get_none _ k hk, Slots.get_none _ k hk]; rfl

theorem dropDisk_eq_some {d e : DiskId} {v : Option DiskId} :
    dropDisk d v = some e ↔ v = some e ∧ e ≠ d := by
  unfold dropDisk
  split
  · subst v; simp; exact fun h => h.symm
  · rename_i h
    exact ⟨fun hv => ⟨hv, by rintro rfl; exact h hv⟩, fun hv => hv.1⟩

theorem Slots.holds_iff (t : Slots) (d : DiskId) : t.holds d = true ↔ ∃ k, t.get k = some d := by
  simp only [Slots.holds, List.any_eq_true, List.mem_range, beq_iff_eq]
  exact ⟨fun ⟨k, _, h⟩ => ⟨k, h⟩, fun ⟨k, h⟩ => ⟨k, Slots.lt_of_get h, h⟩⟩

/-! The disk images. -/

theorem findDisk_replace (disks : List (DiskId × Image)) (d e : DiskId) (img : Image) :
    findDisk (replaceDisk disks d img) e =
      if e = d then (findDisk disks d).map fun _ => img else findDisk disks e := by
  induction disks with
  | nil => simp [replaceDisk, findDisk]
  | cons x disks ih =>
    obtain ⟨k, old⟩ := x
    rw [show replaceDisk ((k, old) :: disks) d img =
      (if k = d then (d, img) else (k, old)) :: replaceDisk disks d img from rfl]
    by_cases hkd : k = d
    · subst hkd
      by_cases hke : e = k
      · subst hke; simp [findDisk]
      · simp [findDisk, hke, Ne.symm hke, ih]
    · by_cases hed : e = d
      · subst hed; simp [findDisk, hkd, ih]
      · simp [findDisk, hkd, hed, ih]

theorem findDisk_append (disks : List (DiskId × Image)) (k e : DiskId) (img : Image) :
    findDisk (disks ++ [(k, img)]) e =
      match findDisk disks e with
      | some old => some old
      | none => if k = e then some img else none := by
  induction disks with
  | nil => simp [findDisk]
  | cons x disks ih =>
    obtain ⟨j, old⟩ := x
    by_cases hj : j = e <;> simp [findDisk, hj, ih]

theorem findDisk_remove (disks : List (DiskId × Image)) (d e : DiskId) :
    findDisk (removeDisk disks d) e = if e = d then none else findDisk disks e := by
  induction disks with
  | nil => simp [removeDisk, findDisk]
  | cons x disks ih =>
    obtain ⟨k, old⟩ := x
    rw [removeDisk, List.filter_cons]
    by_cases hkd : k = d
    · subst hkd
      simp only [ne_eq, not_true, decide_false, Bool.false_eq_true, if_false]
      rw [← removeDisk, ih]
      by_cases hke : e = k
      · simp [hke]
      · simp [hke, findDisk, Ne.symm hke]
    · simp only [ne_eq, hkd, not_false_eq_true, decide_true, if_true]
      rw [← removeDisk]
      by_cases hke : k = e
      · subst hke; simp [findDisk, hkd]
      · simp [findDisk, hke, ih]

theorem findDisk_mem {disks : List (DiskId × Image)} {d : DiskId} {img : Image}
    (h : findDisk disks d = some img) : (d, img) ∈ disks := by
  induction disks with
  | nil => cases h
  | cons x disks ih =>
    obtain ⟨k, old⟩ := x
    rw [findDisk] at h
    split at h
    · cases h; subst d; exact List.mem_cons_self
    · exact List.mem_cons_of_mem _ (ih h)

theorem findDisk_isSome_iff (disks : List (DiskId × Image)) (d : DiskId) :
    (findDisk disks d).isSome = true ↔ d ∈ disks.map Prod.fst := by
  induction disks with
  | nil => simp [findDisk]
  | cons x disks ih =>
    obtain ⟨k, old⟩ := x
    by_cases hk : k = d
    · simp [findDisk, hk]
    · simp [findDisk, hk, ih, Ne.symm hk]

/-! Reaching an image, a drive. -/

theorem State.withImage_some {s : State} {d : DiskId} {img : Image} (h : s.image d = some img)
    (k : Image → Result) : s.withImage d k = k img := by
  rw [State.withImage, h]

theorem State.withImage_none {s : State} {d : DiskId} (h : s.image d = none) (k : Image → Result) :
    s.withImage d k = .fault (.noSuchDisk d) := by
  rw [State.withImage, h]

/-- An operation on an image answers a next state only on a live identity. -/
theorem State.withImage_next {s t : State} {d : DiskId} {k : Image → Result}
    (h : s.withImage d k = .next t) : ∃ img, s.image d = some img ∧ k img = .next t := by
  unfold State.withImage at h
  split at h
  · exact ⟨_, ‹_›, h⟩
  · cases h

/-- A lookup changes the answer and nothing else. -/
theorem State.lookup_next {s t : State} {d : DiskId} {α : Type} {v : Image → Except Reason α}
    {k : α → Answer} (h : s.lookup d v k = .next t) : ∃ a, t = s.answer a := by
  obtain ⟨img, -, h⟩ := State.withImage_next h
  cases h
  unfold State.finish State.raised
  split <;> exact ⟨_, rfl⟩

theorem driveOf_eq_some {sel : Byte} {drive : Nat} :
    driveOf sel = some drive ↔ 0x31 ≤ sel.toNat ∧ sel.toNat ≤ 0x38 ∧ drive = sel.toNat - 0x31 := by
  unfold driveOf
  split
  · rename_i h; simp [h.1, h.2, eq_comm]
  · rename_i h; simp; intro h₁ h₂; exact absurd ⟨h₁, h₂⟩ h

/-- When a selector resolves (42 R172). -/
theorem resolveDrive_ok {s : State} {sel : Byte} {d : DiskId} :
    resolveDrive s sel = .ok d ↔
      0x31 ≤ sel.toNat ∧ sel.toNat ≤ 0x38 ∧ s.dpSlot.get (sel.toNat - 0x31) = some d := by
  unfold resolveDrive
  cases hd : driveOf sel with
  | none =>
    simp only [reduceCtorEq, false_iff]
    rintro ⟨h₁, h₂, -⟩
    rw [driveOf_eq_some.2 ⟨h₁, h₂, rfl⟩] at hd
    cases hd
  | some drive =>
    obtain ⟨h₁, h₂, rfl⟩ := driveOf_eq_some.1 hd
    dsimp only
    cases hg : s.dpSlot.get (sel.toNat - 0x31) <;> simp [h₁, h₂]

/-- A command's drive: an `E` with the reason, or the disk's image (42 R172, R173). -/
theorem onDrive_next {s t : State} {sel : Byte} {k : DiskId → Image → Result}
    (h : onDrive s sel k = .next t) :
    (∃ r, resolveDrive s sel = .error r ∧ t = s.replyError r) ∨
      ∃ d img, resolveDrive s sel = .ok d ∧ s.image d = some img ∧ k d img = .next t := by
  unfold onDrive at h
  split at h
  · cases h; exact .inl ⟨_, ‹_›, rfl⟩
  · obtain ⟨img, hi, hk⟩ := State.withImage_next h
    exact .inr ⟨_, img, ‹_›, hi, hk⟩

theorem onDrive_ok {s : State} {sel : Byte} {d : DiskId} {img : Image} (h : resolveDrive s sel = .ok d)
    (hi : s.image d = some img) (k : DiskId → Image → Result) : onDrive s sel k = k d img := by
  rw [onDrive, h]
  exact State.withImage_some hi _

theorem orReply_next {s t : State} {check : Option Reason} {k : Result} (h : orReply s check k = .next t) :
    (∃ r, check = some r ∧ t = s.replyError r) ∨ (check = none ∧ k = .next t) := by
  unfold orReply at h
  split at h
  · cases h; exact .inl ⟨_, rfl, rfl⟩
  · exact .inr ⟨rfl, h⟩

/-- When a wire command's sector is good (42 R176, R183). -/
theorem wireSectorCheck_none {img : Image} {sec : BitVec 16} :
    wireSectorCheck img sec = none ↔ img.has sec.toNat = true ∧ img.len sec.toNat = 128 := by
  unfold wireSectorCheck Config.wireSector
  split
  · split <;> simp_all
  · simp_all

/-- When write data passes every check (42 R183). -/
theorem writeCheck_none {img : Image} {sec : BitVec 16} {data : List Byte} :
    writeCheck img sec data = none ↔
      img.lock = false ∧ img.has sec.toNat = true ∧ img.len sec.toNat = 128 ∧ data.length = 128 := by
  unfold writeCheck
  cases hl : img.lock
  · simp only [Bool.false_eq_true, if_false, true_and]
    cases hw : wireSectorCheck img sec with
    | some r =>
      simp only [reduceCtorEq, false_iff]
      rintro ⟨h₁, h₂, -⟩
      rw [wireSectorCheck_none.2 ⟨h₁, h₂⟩] at hw
      cases hw
    | none =>
      obtain ⟨h₁, h₂⟩ := wireSectorCheck_none.1 hw
      have hc : Config.wireSector = 128 := rfl
      by_cases hd : data.length = Config.wireSector <;> simp [h₁, h₂, hd, hc]
  · simp

/-- What a read command can do: send one burst, with or without a log (42 R176). -/
theorem readCommand_next {sel : Byte} {sec : BitVec 16} {off : Byte} {s t : State}
    (h : readCommand sel sec off s = .next t) :
    (∃ r, t = s.replyError r) ∨ t = (s.sendCode .A).done ∨
      ∃ d img, s.image d = some img ∧
        t = (s.sendPayload (img.slice sec.toNat off.toNat 32)).done := by
  rcases onDrive_next h with ⟨r, -, rfl⟩ | ⟨d, img, -, hi, h⟩
  · exact .inl ⟨r, rfl⟩
  rcases orReply_next h with ⟨r, -, rfl⟩ | ⟨-, h⟩
  · exact .inl ⟨r, rfl⟩
  split at h
  · cases h; exact .inr (.inl rfl)
  · split at h
    · cases h; exact .inr (.inr ⟨d, img, hi, rfl⟩)
    · cases h; exact .inl ⟨_, rfl⟩

/-- What a decoded command can do (42 R171). -/
theorem runCommand_next {c : Command} {s t : State} (h : runCommand c s = .next t) :
    (∃ r, t = s.replyError r) ∨ t = (s.sendCode .A).done ∨
      (∃ p, (p.length = 4 ∨ p.length = 32) ∧ t = (s.sendPayload p).done) ∨
      ∃ wp, t = (s.setWp (some wp)).done := by
  cases c with
  | cmdS sel =>
    rcases onDrive_next h with ⟨r, -, rfl⟩ | ⟨d, img, -, -, h⟩
    · exact .inl ⟨r, rfl⟩
    · cases h; exact .inr (.inr (.inl ⟨_, .inl rfl, rfl⟩))
  | cmdRChunk sel sec off =>
    rcases readCommand_next h with h | h | ⟨d, img, -, h⟩
    · exact .inl h
    · exact .inr (.inl h)
    · exact .inr (.inr (.inl ⟨_, .inr (by simp), h⟩))
  | cmdRProbe sel sec =>
    rcases readCommand_next h with h | h | ⟨d, img, -, h⟩
    · exact .inl h
    · exact .inr (.inl h)
    · exact .inr (.inr (.inl ⟨_, .inr (by simp), h⟩))
  | cmdW sel sec => cases h; exact .inr (.inr (.inr ⟨_, rfl⟩))
  | cmdP sel sec => cases h; exact .inr (.inr (.inr ⟨_, rfl⟩))
  | other cmd => cases h; exact .inl ⟨_, rfl⟩
  | emptyOrShort payload => cases h; exact .inl ⟨_, rfl⟩

/-- What write data can do: disarm and `E`, or disarm and write (42 R183). -/
theorem writeData_next {wp : WritePending} {data : List Byte} {now : Time} {s t : State}
    (h : writeData wp data now s = .next t) :
    (∃ r, t = (s.setWp none).replyError r) ∨
      ∃ d img, resolveDrive s wp.sel = .ok d ∧ s.image d = some img ∧ writeCheck img wp.sec data = none ∧
        t = commitWrite d img wp.sec.toNat data now (s.setWp none) := by
  rcases onDrive_next h with ⟨r, -, rfl⟩ | ⟨d, img, hd, hi, h⟩
  · exact .inl ⟨r, rfl⟩
  rcases orReply_next h with ⟨r, -, rfl⟩ | ⟨hc, h⟩
  · exact .inl ⟨r, rfl⟩
  · cases h; exact .inr ⟨d, img, hd, hi, hc, rfl⟩

/-- What the dispatcher can do with a good frame (42 R170). -/
theorem execDispatch_next {p : List Byte} {now : Time} {s t : State} (h : execDispatch p now s = .next t) :
    (s.dpWp = none ∧ runCommand (decodeCommand p) s = .next t) ∨
      ∃ wp, s.dpWp = some wp ∧ writeData wp p now s = .next t := by
  unfold execDispatch execWriteData at h
  split at h
  · rename_i wp hw
    exact .inr ⟨wp, hw, by simpa [hw] using h⟩
  · exact .inl ⟨‹_›, h⟩

/-- What a data reply operation can do: in its own variant, up to 255 bytes, one burst (41 R151 to R153). -/
theorem sendPayloadAs_next {v : Variant} {p : List Byte} {s t : State} (h : sendPayloadAs v p s = .next t) :
    s.params.variant = v ∧ p.length ≤ 255 ∧ t = (s.sendPayload p).done := by
  unfold sendPayloadAs at h
  by_cases hv : s.params.variant = v
  · by_cases hp : 255 < p.length
    · simp [hv, hp] at h
    · simp [hv, hp] at h
      exact ⟨hv, by omega, h.symm⟩
  · simp [hv] at h

/-- What `WriteSector` can do: the sector, or a log (43 R212). -/
theorem State.storeSector_eq (s : State) (d : DiskId) (img : Image) (n : Nat) (data : List Byte) :
    (img.has n = true ∧ data.length = img.len n ∧ s.storeSector d img n data = s.setImage d (img.put n data)) ∨
      ∃ r, s.storeSector d img n data = s.logged r := by
  unfold State.storeSector State.putSector
  split
  · split
    · exact .inl ⟨‹_›, ‹_›, rfl⟩
    · exact .inr ⟨_, rfl⟩
  · exact .inr ⟨_, rfl⟩

/-! The invariant, taken apart. -/

theorem State.slotsLive_iff (s : State) :
    s.slotsLive = true ↔ ∀ k d, s.dpSlot.get k = some d → (s.image d).isSome = true := by
  simp only [State.slotsLive, List.all_eq_true, List.mem_range]
  constructor
  · intro h k d hd
    have := h k (Slots.lt_of_get hd)
    rwa [hd] at this
  · intro h k _
    cases hd : s.dpSlot.get k with
    | none => rfl
    | some d => exact h k d hd

theorem State.slotsOnce_iff (s : State) :
    s.slotsOnce = true ↔ ∀ j k d, s.dpSlot.get j = some d → s.dpSlot.get k = some d → j = k := by
  simp only [State.slotsOnce, List.all_eq_true, List.mem_range, Bool.or_eq_true, beq_iff_eq, bne_iff_ne]
  constructor
  · intro h j k d hj hk
    rcases h j (Slots.lt_of_get hj) k (Slots.lt_of_get hk) with (h | h) | h
    · exact h
    · rw [hj] at h; cases h
    · exact absurd (hj.trans hk.symm) h
  · intro h j _ k _
    by_cases hjk : s.dpSlot.get j = s.dpSlot.get k
    · cases hj : s.dpSlot.get j with
      | none => exact .inl (.inr rfl)
      | some d => exact .inl (.inl (h j k d hj (hjk ▸ hj)))
    · exact .inr hjk

theorem State.frameCounted_iff (s : State) :
    s.frameCounted = true ↔ (s.fePhase = .accum →
      s.feRemaining.toNat + s.feBuf.length = s.feN.toNat + 1 ∧ 1 ≤ s.feRemaining.toNat) := by
  unfold State.frameCounted
  cases s.fePhase <;> simp

/-- On a live slot the drive resolves and its image is there. -/
theorem State.image_of_resolve {s : State} (h : s.slotsLive = true) {sel : Byte} {d : DiskId}
    (hd : resolveDrive s sel = .ok d) : ∃ img, s.image d = some img :=
  Option.isSome_iff_exists.1 ((s.slotsLive_iff).1 h _ d (resolveDrive_ok.1 hd).2.2)

end Sys2Proof.Machine
end

