-- ==== Sys2Proof/Laws/Engine.lean ====
section
/-! SUPPORT. The frame engine's own pieces: the idle check, a length byte, a byte in a frame, the end of a frame. -/

namespace Sys2Proof.Machine

/-- Up to `T_IDLE` after the previous byte, the bound included, the idle check does nothing (41 R141). -/
theorem State.idleChecked_of_le {s : State} {now : Time}
    (h : ∀ last, s.feLastRx = some last → now ≤ last + s.params.tIdle) : s.idleChecked now = s := by
  unfold State.idleChecked
  split
  · rfl
  · rw [if_neg (Nat.not_lt.2 (h _ ‹_›))]

/-- After more than `T_IDLE` the idle check is a frame reset (41 R141). -/
theorem State.idleChecked_of_lt {s : State} {now last : Time} (h : s.feLastRx = some last)
    (hlt : last + s.params.tIdle < now) : s.idleChecked now = s.feReset := by
  simp only [State.idleChecked, h, if_pos hlt]

/-- The idle check does one of these two things. -/
theorem State.idleChecked_eq (s : State) (now : Time) :
    s.idleChecked now = s ∨ s.idleChecked now = s.feReset := by
  unfold State.idleChecked
  split
  · exact .inl rfl
  · split
    · exact .inr rfl
    · exact .inl rfl

/-- In awaiting-length the idle check leaves the phase (41 R141). -/
theorem State.idleChecked_awaitLen {s : State} (h : s.fePhase = .awaitLen) (now : Time) :
    (s.idleChecked now).fePhase = .awaitLen := by
  rcases s.idleChecked_eq now with e | e <;> rw [e]
  · exact h
  · rfl

/-- A length byte that starts a frame (41 R142). -/
theorem State.lengthByte_eq {s : State} {b : Byte} (h : b ≠ 0xFF ∨ s.params.len255Degenerate = false) :
    s.lengthByte b = { s with feN := b, feRemaining := b.setWidth 9 + 1, feBuf := [], fePhase := .accum } := by
  refine if_neg ?_
  rintro ⟨h₁, h₂⟩
  rcases h with h | h
  · exact h h₂
  · rw [h] at h₁; cases h₁

/-- Whatever the length byte, only the frame engine and the draw counter change (41 R142; log 16). -/
theorem State.lengthByte_frame (s : State) (b : Byte) : ∃ ph n m buf k,
    s.lengthByte b = { s with fePhase := ph, feN := n, feRemaining := m, feBuf := buf, draws := k } := by
  unfold State.lengthByte
  split
  · exact ⟨_, _, _, _, _, rfl⟩
  · exact ⟨_, _, _, _, _, rfl⟩

/-- A byte that is not the last of its frame (41 R143). -/
theorem accumulate_middle {s : State} (h : s.feRemaining ≠ 1) (b : Byte) (now : Time) :
    accumulate b now s =
      .next { s with feBuf := s.feBuf ++ [b], feRemaining := s.feRemaining - 1, ret := .done } := by
  have hr : s.feRemaining - 1 ≠ 0 := fun hz => h (by bv_omega)
  simp only [accumulate, if_neg hr]
  rfl

/-- The last byte of a frame (41 R143, R144). -/
theorem accumulate_last {s : State} (h : s.feRemaining = 1) (b : Byte) (now : Time) :
    accumulate b now s = frameEnd now { s with feBuf := s.feBuf ++ [b], feRemaining := 0 } := by
  have hr : s.feRemaining - 1 = 0 := by rw [h]; rfl
  simp only [accumulate, hr, if_true]

/-- What the end of a frame can do: the log, or the dispatcher in awaiting-length (41 R144 to R146). -/
theorem frameEnd_next {now : Time} {s t : State} (h : frameEnd now s = .next t) :
    ∃ payload : List Byte,
      let u := { s with fePhase := .awaitLen }.evalChecksum payload
      execDispatch payload now u = .next t ∨ t = (u.logged .checksumMismatch).done := by
  unfold frameEnd at h
  split at h
  · cases h
  · refine ⟨s.feBuf.take s.feN.toNat, ?_⟩
    dsimp only at h ⊢
    split at h
    · exact .inl h
    · cases h; exact .inr rfl

/-- The end of a frame whose buffer is full (41 R144 to R146). -/
theorem frameEnd_eq {now : Time} {s : State} {payload : List Byte} {cs : Byte}
    (hb : s.feBuf = payload ++ [cs]) (hn : s.feN.toNat = payload.length) :
    frameEnd now s =
      let u := { s with fePhase := .awaitLen }.evalChecksum payload
      if checksum payload = cs then execDispatch payload now u else .next (u.logged .checksumMismatch).done := by
  have hg : s.feBuf[s.feN.toNat]? = some cs := by simp [hb, hn]
  have ht : s.feBuf.take s.feN.toNat = payload := by simp [hb, hn]
  simp only [frameEnd, hg, ht]

/-- An admitted byte, taken apart (41 R140 to R143). -/
theorem execRxByte_open {s : State} (h : s.trOpen = true) (b : Byte) (now : Time) :
    execRxByte b now s = admittedByte b now s := if_pos h

theorem rxBytes_cons {s t : State} {b : Byte} {now : Time} (h : execRxByte b now s = .next t) (bs : List Byte) :
    rxBytes now (b :: bs) s = rxBytes now bs t := by
  rw [rxBytes, h]

/-- Bytes in the middle of a frame, received with one time stamp, are appended (41 R143). -/
theorem rxBytes_middle {s : State} {now : Time} (ho : s.trOpen = true) (hp : s.fePhase = .accum)
    (hl : s.feLastRx = some now) (hret : s.ret = .done) (bs more : List Byte)
    (hr : bs.length < s.feRemaining.toNat) :
    rxBytes now (bs ++ more) s = rxBytes now more
      { s with feBuf := s.feBuf ++ bs, feRemaining := s.feRemaining - BitVec.ofNat 9 bs.length } := by
  induction bs generalizing s with
  | nil => simp
  | cons b bs ih =>
    have hi : s.idleChecked now = s :=
      State.idleChecked_of_le fun last h => by rw [hl] at h; cases h; exact Nat.le_add_right ..
    have hlen : (b :: bs).length = bs.length + 1 := rfl
    have hlt := s.feRemaining.isLt
    have hone : s.feRemaining ≠ 1 := fun h => by
      have h₁ : s.feRemaining.toNat = 1 := by rw [h]; rfl
      omega
    have hrec : s.received now = s := by cases s; subst hl; rfl
    have hrx : execRxByte b now s =
        .next { s with feBuf := s.feBuf ++ [b], feRemaining := s.feRemaining - 1 } := by
      rw [execRxByte_open ho]
      simp only [admittedByte, hi, hrec, hp]
      rw [accumulate_middle hone, ← hret, ← hp]
    have hsub : (s.feRemaining - 1).toNat = s.feRemaining.toNat - 1 := by
      have h₁ : (1 : BitVec 9).toNat = 1 := rfl
      rw [BitVec.toNat_sub, h₁]; omega
    refine (rxBytes_cons hrx _).trans ((ih (s := { s with feBuf := s.feBuf ++ [b], feRemaining := s.feRemaining - 1 })
      ho hp hl hret (by show bs.length < (s.feRemaining - 1).toNat; omega)).trans ?_)
    congr 2
    · apply BitVec.eq_of_toNat_eq
      simp only [BitVec.toNat_sub, BitVec.toNat_ofNat, List.length_cons] at hsub ⊢
      omega
    · simp

/-- The last byte of a frame, received with the same time stamp (41 R143, R144). -/
theorem rxBytes_last {s : State} {now : Time} (ho : s.trOpen = true) (hp : s.fePhase = .accum)
    (hl : s.feLastRx = some now) (hr : s.feRemaining = 1) (b : Byte) :
    rxBytes now [b] s = frameEnd now { s with feBuf := s.feBuf ++ [b], feRemaining := 0 } := by
  have hi : s.idleChecked now = s :=
    State.idleChecked_of_le fun last h => by rw [hl] at h; cases h; exact Nat.le_add_right ..
  have hrec : s.received now = s := by cases s; subst hl; rfl
  have hrx : execRxByte b now s = frameEnd now { s with feBuf := s.feBuf ++ [b], feRemaining := 0 } := by
    rw [execRxByte_open ho]
    simp only [admittedByte, hi, hrec, hp]
    exact accumulate_last hr b now
  rw [rxBytes, hrx]
  split <;> simp_all [rxBytes]

/-- A length byte in awaiting-length, with its time stamp (41 R140 to R142). -/
theorem execRxByte_length {s : State} {b : Byte} {now : Time} (ho : s.trOpen = true)
    (hp : s.fePhase = .awaitLen) :
    execRxByte b now s = .next (((s.idleChecked now).received now).lengthByte b).done := by
  have hx : ((s.idleChecked now).received now).fePhase = .awaitLen := s.idleChecked_awaitLen hp now
  rw [execRxByte_open ho, admittedByte]
  simp only [hx]

/-- Everything a received byte can do: nothing on a closed transport; else the frame engine's registers change, and, at
a frame end, the dispatcher runs in awaiting-length or a mismatch is logged (41 R140 to R146). -/
theorem execRxByte_next {b : Byte} {now : Time} {s t : State} (h : execRxByte b now s = .next t) :
    (s.trOpen = false ∧ t = s.answer .notAdmitted) ∨ ∃ ph n m buf k,
      let u := { s with
        fePhase := ph, feN := n, feRemaining := m, feBuf := buf, feLastRx := some now, draws := k }
      t = u.done ∨ s.fePhase = .accum ∧ ph = .awaitLen ∧ ∃ payload : List Byte,
        execDispatch payload now (u.evalChecksum payload) = .next t ∨
          t = ((u.evalChecksum payload).logged .checksumMismatch).done := by
  by_cases ho : s.trOpen = true
  swap
  · have hc : s.trOpen = false := by simpa using ho
    rw [execRxByte, if_neg ho] at h
    cases h
    exact .inl ⟨hc, rfl⟩
  right
  rw [execRxByte_open ho] at h
  cases hp : ((s.idleChecked now).received now).fePhase with
  | awaitLen =>
    simp only [admittedByte, hp] at h
    cases h
    obtain ⟨ph, n, m, buf, k, e⟩ := ((s.idleChecked now).received now).lengthByte_frame b
    rw [e]
    refine ⟨ph, n, m, buf, k, .inl ?_⟩
    rcases s.idleChecked_eq now with e | e <;> rw [e] <;> rfl
  | accum =>
    have hi : s.idleChecked now = s := by
      rcases s.idleChecked_eq now with e | e
      · exact e
      · rw [e] at hp; cases hp
    rw [hi] at hp
    have hp : s.fePhase = .accum := hp
    simp only [admittedByte, hi, State.received, hp] at h
    by_cases h1 : s.feRemaining = 1
    · rw [accumulate_last (by exact h1)] at h
      obtain ⟨payload, h⟩ := frameEnd_next h
      exact ⟨.awaitLen, s.feN, 0, s.feBuf ++ [b], s.draws, .inr ⟨hp, rfl, payload, h⟩⟩
    · rw [accumulate_middle (by exact h1)] at h
      cases h
      exact ⟨.accum, s.feN, s.feRemaining - 1, s.feBuf ++ [b], s.draws, .inl rfl⟩

end Sys2Proof.Machine
end

