-- ==== Sys2Proof/Laws/Operands.lean ====
section
/-! SUPPORT. Byte order in both directions, selectors, and what a length prefix reads back. -/

namespace Sys2Proof

theorem le16_toNat (lo hi : Byte) : (le16 lo hi).toNat = lo.toNat + 256 * hi.toNat := by
  have := lo.isLt
  have := hi.isLt
  rw [le16, BitVec.toNat_append, ← Nat.shiftLeft_add_eq_or_of_lt lo.isLt, Nat.shiftLeft_eq]
  omega

theorem le16_eq (lo hi : Byte) : le16 lo hi = BitVec.ofNat 16 (lo.toNat + 256 * hi.toNat) := by
  have := lo.isLt
  have := hi.isLt
  apply BitVec.eq_of_toNat_eq
  rw [le16_toNat, BitVec.toNat_ofNat]
  omega

@[simp] theorem le16_lo8_hi8 (v : BitVec 16) : le16 (lo8 v) (hi8 v) = v := by
  have := v.isLt
  apply BitVec.eq_of_toNat_eq
  rw [le16_toNat]
  simp only [lo8, hi8, BitVec.toNat_setWidth, BitVec.toNat_ushiftRight, Nat.shiftRight_eq_div_pow]
  omega

@[simp] theorem lo8_le16 (lo hi : Byte) : lo8 (le16 lo hi) = lo := by
  have := lo.isLt
  apply BitVec.eq_of_toNat_eq
  rw [lo8, BitVec.toNat_setWidth, le16_toNat]
  omega

@[simp] theorem hi8_le16 (lo hi : Byte) : hi8 (le16 lo hi) = hi := by
  have := lo.isLt
  have := hi.isLt
  apply BitVec.eq_of_toNat_eq
  rw [hi8, BitVec.toNat_setWidth, BitVec.toNat_ushiftRight, le16_toNat, Nat.shiftRight_eq_div_pow]
  omega

/-- The shape of a frame read back: the payload, the checksum byte, what follows (30 R90). -/
theorem decodeLengthPrefixed_frame {p : List Byte} (h : p.length ≤ 255) (cs : Byte) (rest : List Byte) :
    decodeLengthPrefixed (frameBytes p cs ++ rest) = .ok (p, cs, rest) := by
  have hn : (BitVec.ofNat 8 p.length).toNat = p.length := by
    rw [BitVec.toNat_ofNat]; omega
  simp only [decodeLengthPrefixed, frameBytes, List.cons_append, hn]
  rw [if_neg (by simp only [List.length_append, List.length_cons]; omega)]
  simp

/-- What a length prefix reads is at most 255 bytes, and what follows is the rest of the bytes (30 R90). -/
theorem decodeLengthPrefixed_ok {bs p rest : List Byte} {cs : Byte}
    (h : decodeLengthPrefixed bs = .ok (p, cs, rest)) : p.length ≤ 255 ∧ ∃ k, rest = bs.drop k := by
  unfold decodeLengthPrefixed at h
  split at h
  · cases h
  · rename_i n r
    split at h
    · cases h
    · cases h
      have := n.isLt
      exact ⟨by rw [List.length_take]; omega, n.toNat + 2, rfl⟩

/-- The command code map misses exactly the codes that are none of the four (30 R102). -/
theorem isCommandCode_false {cmd : Byte} :
    isCommandCode cmd = false ↔ cmd ≠ 0x53 ∧ cmd ≠ 0x52 ∧ cmd ≠ 0x57 ∧ cmd ≠ 0x50 := by
  simp [isCommandCode, and_assoc]

end Sys2Proof
end

