-- ==== Sys2Proof/Laws/Parser.lean ====
section
/-! SUPPORT. The parser's pieces: a lookup on a live disk, bitmaps, tails, entry kinds, the hops of a chain. -/

namespace Sys2Proof

/-- A bitmap's free sectors are those whose bit is 1 (30 R114). -/
theorem mem_bitmapFree {b : Nat → Byte} {first bits n : Nat} :
    n ∈ bitmapFree b first bits ↔ first ≤ n ∧ n < first + bits ∧ bitmapBit b (n - first) = true := by
  simp only [bitmapFree, List.mem_map, List.mem_filter, List.mem_range]
  constructor
  · rintro ⟨k, ⟨h₁, h₂⟩, rfl⟩
    exact ⟨by omega, by omega, by rwa [Nat.add_sub_cancel_left]⟩
  · rintro ⟨h₁, h₂, h₃⟩
    exact ⟨n - first, ⟨by omega, h₃⟩, by omega⟩

/-- A bitmap's free sectors are listed in ascending order (44 R246). -/
theorem bitmapFree_sorted (b : Nat → Byte) (first bits : Nat) :
    (bitmapFree b first bits).Pairwise (· < ·) := by
  rw [bitmapFree, List.pairwise_map]
  exact (List.pairwise_lt_range.filter _).imp fun h => by omega

theorem kindOf_live (flags : Byte) :
    (kindOf flags == .live) = (!flags.getLsbD 7 && flags.getLsbD 6) := by
  revert flags; decide

theorem kindOf_freeSlot (flags : Byte) : kindOf flags = .freeSlot ↔ flags = 0x00 ∨ flags = 0x80 := by
  revert flags; decide

theorem tailOf_fileNo (t0 t1 t2 : Byte) : (tailOf t0 t1 t2).fileNo.toNat = t0.toNat / 4 := by
  have := t0.isLt
  simp only [tailOf, BitVec.extractLsb'_toNat, Nat.shiftRight_eq_div_pow]
  omega

theorem tailOf_next (t0 t1 t2 : Byte) :
    (tailOf t0 t1 t2).next.toNat = 256 * (t0.toNat % 4) + t1.toNat := by
  have := t1.isLt
  simp only [tailOf, BitVec.toNat_append, BitVec.extractLsb'_toNat]
  rw [← Nat.shiftLeft_add_eq_or_of_lt t1.isLt, Nat.shiftLeft_eq, Nat.shiftRight_zero]
  omega

/-- `VTOC2` is there by the sector count (44 R244). -/
theorem Image.hasVtoc2_eq {img : Image} (h : img.isDos2 = true) :
    img.hasVtoc2 = decide (1024 ≤ img.count) := by
  rw [Image.hasVtoc2, h]; rfl

theorem Image.onDos2_of {img : Image} (h : img.isDos2 = true) {α : Type} (v : Except Reason α) :
    img.onDos2 v = v := if_pos h

theorem Image.onDos2_not {img : Image} (h : img.isDos2 = false) {α : Type} (v : Except Reason α) :
    img.onDos2 v = .error .notDos2 := by
  rw [Image.onDos2, h]; rfl

namespace Machine

/-- A lookup on a live disk completes with its value or its error (44 R240). -/
theorem State.lookup_some {s : State} {d : DiskId} {img : Image} (h : s.image d = some img) {α : Type}
    (v : Image → Except Reason α) (k : α → Answer) : s.lookup d v k = .next (s.finish (v img) k) :=
  State.withImage_some h _

@[simp] theorem State.finish_ok (s : State) {α : Type} (a : α) (k : α → Answer) :
    s.finish (.ok a) k = { s with ret := k a } := rfl

@[simp] theorem State.finish_error (s : State) {α : Type} (r : Reason) (k : α → Answer) :
    s.finish (.error r) k = { s with ret := answerOf r } := rfl

/-- A sound hop: the walk goes on at the link, with one hop less to make (44 R254). -/
theorem walk_hop {img : Image} {fileNo fuel n : Nat} {out : List Byte} (h : inChain img fileNo n)
    (hl : (img.tailAt n).next ≠ 0) :
    img.walk fileNo (fuel + 1) n out =
      img.walk fileNo fuel (img.tailAt n).next.toNat (out ++ img.slice n 0 (img.tailAt n).dataLen.toNat) := by
  obtain ⟨h₁, h₂, h₃, h₄⟩ := h
  rw [Image.walk, if_pos ((Image.has_iff ..).2 ⟨h₁, h₂⟩)]
  dsimp only
  rw [if_neg (not_not.2 h₃), if_neg (Nat.not_lt.2 h₄), if_neg hl]

/-- After sound hops the walk stands where they lead, with as many hops less to make (44 R254). -/
theorem walk_leadsTo {img : Image} {fileNo : Nat} {visited : List Nat} {start cur fuel : Nat} (out : List Byte)
    (h : leadsTo img fileNo start visited cur) (hf : visited.length ≤ fuel) :
    ∃ out', img.walk fileNo fuel start out = img.walk fileNo (fuel - visited.length) cur out' := by
  induction visited generalizing start fuel out with
  | nil => exact ⟨out, by rw [h]; rfl⟩
  | cons n rest ih =>
    obtain ⟨rfl, hin, hl, hrest⟩ := h
    obtain ⟨fuel, rfl⟩ := Nat.exists_eq_add_of_le' (Nat.le_trans (Nat.le_add_left 1 _) hf)
    obtain ⟨out', e⟩ := ih (out ++ img.slice n 0 (img.tailAt n).dataLen.toNat) hrest (Nat.le_of_succ_le_succ hf)
    exact ⟨out', by rw [walk_hop hin hl, e, List.length_cons, Nat.add_sub_add_right]⟩

end Machine
end Sys2Proof
end

