-- ==== Sys2Proof/Laws/PerInstr.lean ====
section
/-! SUPPORT. Per instruction: a well-formed instruction's encoding, if it has one, is as long as its format allows
(spec 30). -/

namespace Sys2Proof.Laws.EncodingShape

open Sys2Proof Sys2Proof.Machine

/-- The encoding of a well-formed `i` is as long as its format allows. -/
def Statement (i : Instr) : Prop :=
  ∀ (f : Format) (bs : List Byte), i.wellFormed = true → encode i = some (f, bs) → lengthFits f bs.length = true

/-- An instruction without an encoding has nothing to show. -/
theorem of_none {i : Instr} (h : encode i = none) : Statement i := fun f bs _ he => by
  rw [h] at he; cases he

/-- An instruction with an encoding fits when that encoding does. -/
theorem of_some {i : Instr} {f : Format} {bs : List Byte} (h : encode i = some (f, bs))
    (hf : i.wellFormed = true → lengthFits f bs.length = true) : Statement i := fun f' bs' hw he => by
  rw [h] at he; cases he; exact hf hw

/-- A frame around a payload is two bytes longer. -/
theorem frameBytes_length (p : List Byte) (cs : Byte) : (frameBytes p cs).length = p.length + 2 := by
  simp [frameBytes]

/-- A payload that fits a frame makes a frame of 2 to 257 bytes. -/
theorem frame_fits {p : List Byte} (h : fitsFrame p = true) :
    (decide (2 ≤ p.length + 2) && decide (p.length + 2 ≤ 257)) = true := by
  simp only [fitsFrame, decide_eq_true_eq, Bool.and_eq_true] at h ⊢
  omega

theorem frameIn (payload : List Byte) (cs : Byte) (now : Time) : Statement (.frameIn payload cs now) :=
  of_some rfl fun hw => by
    rw [frameBytes_length]; exact frame_fits hw

theorem writeDataFrame (data : List Byte) (cs : Byte) (now : Time) : Statement (.writeDataFrame data cs now) :=
  of_some rfl fun hw => by
    rw [frameBytes_length]; simp_all [Instr.wellFormed, lengthFits, Config.wireSector]

theorem replyDataA (p : List Byte) : Statement (.replyDataA p) :=
  of_some rfl fun hw => by
    rw [replyFrame, frameBytes_length]; exact frame_fits hw

theorem replyDataB (p : List Byte) : Statement (.replyDataB p) :=
  of_some rfl fun hw => by
    rw [replyFrame, show (ReplyCode.C.byte :: p ++ [checksum p]).length = p.length + 2 by simp]
    exact frame_fits hw

theorem cmdS (sel : Byte) : Statement (.cmdS sel) := of_some rfl fun _ => rfl
theorem cmdRChunk (sel : Byte) (sec : BitVec 16) (off : Byte) : Statement (.cmdRChunk sel sec off) :=
  of_some rfl fun _ => rfl
theorem cmdRProbe (sel : Byte) (sec : BitVec 16) : Statement (.cmdRProbe sel sec) := of_some rfl fun _ => rfl
theorem cmdW (sel : Byte) (sec : BitVec 16) : Statement (.cmdW sel sec) := of_some rfl fun _ => rfl
theorem cmdP (sel : Byte) (sec : BitVec 16) : Statement (.cmdP sel sec) := of_some rfl fun _ => rfl
theorem writeData (data : List Byte) (now : Time) : Statement (.writeData data now) := of_some rfl fun hw => hw
theorem other (cmd : Byte) : Statement (.other cmd) := of_some rfl fun _ => rfl
theorem emptyOrShort (payload : List Byte) : Statement (.emptyOrShort payload) :=
  of_some rfl fun hw => by
    have h : isEmptyOrShort payload = true := hw
    cases payload with
    | nil => rfl
    | cons cmd args =>
      have hn : commandNeed cmd ≤ 5 := by
        unfold commandNeed; split <;> (try split) <;> omega
      simp only [isEmptyOrShort, Bool.and_eq_true, decide_eq_true_eq] at h
      exact decide_eq_true (by simp only [List.length_cons]; omega)

theorem codeA : Statement .codeA := of_some rfl fun _ => rfl
theorem codeC : Statement .codeC := of_some rfl fun _ => rfl
theorem codeE : Statement .codeE := of_some rfl fun _ => rfl
theorem codeN : Statement .codeN := of_some rfl fun _ => rfl
theorem imageHeader (paragraphs : BitVec 16) (sectorSize : BitVec 16) : Statement (.imageHeader paragraphs sectorSize) :=
  of_some rfl fun _ => rfl
theorem statusPayload (flags : Byte) (byte1 : Byte) (reserved : Byte) : Statement (.statusPayload flags byte1 reserved) :=
  of_some rfl fun _ => rfl
theorem dirEntryStruct (r : DirRecord) : Statement (.dirEntryStruct r) :=
  of_some rfl fun hw => by
    simp_all [Instr.wellFormed, DirRecord.wellFormed, lengthFits, DirRecord.bytes]

theorem vtocStruct (v : Vtoc) : Statement (.vtocStruct v) :=
  of_some rfl fun hw => by
    simp_all [Instr.wellFormed, Vtoc.wellFormed, lengthFits, Vtoc.bytes]

theorem vtoc2Struct (v : Vtoc2) : Statement (.vtoc2Struct v) :=
  of_some rfl fun hw => by
    simp_all [Instr.wellFormed, Vtoc2.wellFormed, lengthFits, Vtoc2.bytes]

theorem chainTail (t : Tail) : Statement (.chainTail t) := of_some rfl fun _ => rfl
theorem rxByte (b : Byte) (now : Time) : Statement (.rxByte b now) := of_some rfl fun _ => rfl
theorem feReset : Statement .feReset := of_none rfl
theorem sendCode (c : ReplyCode) : Statement (.sendCode c) := of_none rfl
theorem sendPayloadA (p : List Byte) : Statement (.sendPayloadA p) := of_none rfl
theorem sendPayloadB (p : List Byte) : Statement (.sendPayloadB p) := of_none rfl
theorem dispatch (p : List Byte) (now : Time) : Statement (.dispatch p now) := of_none rfl
theorem decodeCommand (p : List Byte) (now : Time) : Statement (.decodeCommand p now) := of_none rfl
theorem resolveDrive (sel : Byte) : Statement (.resolveDrive sel) := of_none rfl
theorem replyError (r : Reason) : Statement (.replyError r) := of_none rfl
theorem fireDeferred (now : Time) : Statement (.fireDeferred now) := of_none rfl
theorem sector (d : DiskId) (n : Nat) : Statement (.sector d n) := of_none rfl
theorem writeSector (d : DiskId) (n : Nat) (data : List Byte) : Statement (.writeSector d n data) := of_none rfl
theorem imageSize (d : DiskId) : Statement (.imageSize d) := of_none rfl
theorem numSectors (d : DiskId) : Statement (.numSectors d) := of_none rfl
theorem decodeImage (file : List Byte) : Statement (.decodeImage file) := of_none rfl
theorem encodeImage (img : Image) : Statement (.encodeImage img) := of_none rfl
theorem createEmpty : Statement .createEmpty := of_none rfl
theorem envSector (d : DiskId) (n : Nat) : Statement (.envSector d n) := of_none rfl
theorem envWriteSector (d : DiskId) (n : Nat) (data : List Byte) : Statement (.envWriteSector d n data) := of_none rfl
theorem openTransport : Statement .openTransport := of_none rfl
theorem closeTransport : Statement .closeTransport := of_none rfl
theorem newImage : Statement .newImage := of_none rfl
theorem loadImage (file : List Byte) : Statement (.loadImage file) := of_none rfl
theorem saveImage (d : DiskId) : Statement (.saveImage d) := of_none rfl
theorem destroyImage (d : DiskId) : Statement (.destroyImage d) := of_none rfl
theorem setLock (d : DiskId) (v : Bool) : Statement (.setLock d v) := of_none rfl
theorem mount (d : DiskId) (slot : Nat) : Statement (.mount d slot) := of_none rfl
theorem unmount (d : DiskId) : Statement (.unmount d) := of_none rfl
theorem checksum (bytes : List Byte) : Statement (.checksum bytes) := of_none rfl
theorem memRead (d : DiskId) (n : Nat) (off : Nat) (len : Nat) : Statement (.memRead d n off len) := of_none rfl
theorem memWrite (d : DiskId) (n : Nat) (data : List Byte) : Statement (.memWrite d n data) := of_none rfl
theorem len (d : DiskId) (n : Nat) : Statement (.len d n) := of_none rfl
theorem isDos2 (d : DiskId) : Statement (.isDos2 d) := of_none rfl
theorem vtocVersion (d : DiskId) : Statement (.vtocVersion d) := of_none rfl
theorem vtocFreeCount (d : DiskId) : Statement (.vtocFreeCount d) := of_none rfl
theorem hasVtoc2 (d : DiskId) : Statement (.hasVtoc2 d) := of_none rfl
theorem vtoc2FreeCount (d : DiskId) : Statement (.vtoc2FreeCount d) := of_none rfl
theorem sectorIsFree (d : DiskId) (n : Nat) : Statement (.sectorIsFree d n) := of_none rfl
theorem freeSectorList (d : DiskId) : Statement (.freeSectorList d) := of_none rfl
theorem bitmapFreeCount (d : DiskId) : Statement (.bitmapFreeCount d) := of_none rfl
theorem dirEntry (d : DiskId) (k : Nat) : Statement (.dirEntry d k) := of_none rfl
theorem entryKind (e : DirEntry) : Statement (.entryKind e) := of_none rfl
theorem directory (d : DiskId) : Statement (.directory d) := of_none rfl
theorem entryName (e : DirEntry) : Statement (.entryName e) := of_none rfl
theorem tail (d : DiskId) (n : Nat) : Statement (.tail d n) := of_none rfl
theorem fileContents (d : DiskId) (start : Nat) (fileNo : Nat) : Statement (.fileContents d start fileNo) :=
  of_none rfl

end Sys2Proof.Laws.EncodingShape
end

