-- ==== Sys2Proof/Tests/Slice0.lean ====
section
/-! SUPPORT. Tests of the model: what the well-formedness check refuses, words written out from the spec's encodings,
single steps whose results are the vectors of spec 95, and states that meet the premises of the statements. -/

namespace Sys2Proof.Tests

open Sys2Proof Sys2Proof.Machine

set_option Elab.async false

/-! ## States and views -/

/-- The state after an instruction, when there is one. -/
def after (i : Instr) (s : State) : Option State :=
  match exec i s with
  | .next t => some t
  | .fault _ => none
  | .refused _ => none

/-- What an instruction answers. -/
def answers (i : Instr) (s : State) : Option Answer := (after i s).map (·.ret)

/-- What an instruction sends, from a state that has sent nothing. -/
def sends (i : Instr) (s : State) : Option (List (List Byte)) := (after i s).map (·.outTx)

/-- What an instruction logs, from a state that has logged nothing. -/
def logs (i : Instr) (s : State) : Option (List Reason) := (after i s).map (·.outLog)

/-- Disk 0 holds `img`, in slot 0, and the transport is open. -/
def loaded (img : Image) : State :=
  { State.reset with
    trOpen := true, dpSlot := { Slots.empty with slot0 := some 0 }, disks := [(0, img)], nextDisk := 1 }

/-- The start state of most vectors of 95. -/
def blank : State := loaded Image.empty
/-- As `blank`, locked. -/
def locked : State := loaded { Image.empty with lock := true }
/-- 720 sectors, the main ones of 256 bytes. -/
def image256 : Image := ⟨720, .s256, false, []⟩
/-- `image256` in slot 0. -/
def wide : State := loaded image256
/-- As `blank`, with a write to a sector pending. -/
def armed (sel : Byte) (sec : BitVec 16) : State := { blank with dpWp := some ⟨sel, sec⟩ }
/-- In the middle of a frame of `n` payload bytes, the last byte at time 0. -/
def inFrame (n : Byte) (left : BitVec 9) (buf : List Byte) : State :=
  { blank with fePhase := .accum, feN := n, feRemaining := left, feBuf := buf, feLastRx := some 0 }
/-- A complete code is due at 500. -/
def waiting : State := { blank with dpDeferred := [⟨500, [0x43]⟩] }
/-- The block built with variant B. -/
def variantB : State := { blank with params := { Params.standard with variant := .B } }
/-- The block built with the degenerate length byte. -/
def degenerate : State := { blank with params := { Params.standard with len255Degenerate := true } }
/-- Slot 0 names a disk that is not there: no run reaches this. -/
def dead : State := { blank with disks := [] }
/-- An event is pending. -/
def asked (i : Input) : State := { blank with inputs := [i] }

/-- Sector 360 of image F (95 section 6). -/
def vtocF : List Byte :=
  [0x02, 0xC3, 0x02, 0xC0, 0x02, 0, 0, 0, 0, 0, 0x01] ++ List.replicate 44 0xFF ++ [0x00, 0x7F] ++
    List.replicate 43 0xFF ++ List.replicate 28 0
/-- Entry 0 of image F. -/
def entryF : List Byte := [0x42, 3, 0, 4, 0, 0x41, 0x20, 0x20, 0x20, 0x20, 0x20, 0x20, 0x20, 0x54, 0x58, 0x54]
/-- Bytes `from` on of the content `c` of image F. -/
def content (first count : Nat) : List Byte := (List.range count).map fun k => BitVec.ofNat 8 ((first + k) % 251)
/-- Image F (95 section 6), with the given number of sectors. -/
def imageF (count : Nat) : Image :=
  let img : Image := ⟨count, .s128, false, []⟩
  ((((img.put 360 vtocF).put 361 (entryF ++ List.replicate 112 0)).put 4 (content 0 125 ++ [0x00, 0x05, 0x7D])).put 5
    (content 125 125 ++ [0x00, 0x06, 0x7D])).put 6 (content 250 50 ++ List.replicate 75 0 ++ [0x00, 0x00, 0x32])
/-- Image F in slot 0. -/
def diskF : State := loaded (imageF 720)
/-- Image G (95 section 6) in slot 0. -/
def diskG : State :=
  loaded ((imageF 1040).put 1024
    (List.replicate 84 0 ++ [0x7F] ++ List.replicate 37 0xFF ++ [0x2F, 0x01] ++ List.replicate 4 0))
/-- A DOS 2 disk of 369 sectors with few bytes: entry 0 of image F, and a file of two sectors, 4 and 7, as in F9 to F13
with shorter contents. -/
def small (tail4 tail7 : List Byte) : State :=
  let img : Image := ⟨369, .s128, false, []⟩
  loaded ((((img.put 360 (2 :: List.replicate 127 0)).put 361 (entryF ++ List.replicate 112 0)).put 4
    ([0x48, 0x45] ++ List.replicate 123 0 ++ tail4)).put 7 ([0x4C] ++ List.replicate 124 0 ++ tail7))
/-- A DOS 2 disk with three bitmap bytes: two of sector 360, and one of sector 1024 where that exists. -/
def bits (count : Nat) : State :=
  let img : Image := (⟨count, .s128, false, []⟩ : Image).put 360
    ([2, 0, 0, 0, 0, 0, 0, 0, 0, 0, 0x01] ++ List.replicate 45 0 ++ [0x7F] ++ List.replicate 71 0)
  loaded (if count < 1024 then img else img.put 1024 (List.replicate 84 0 ++ [0x7F] ++ List.replicate 43 0))
/-- The entry of 95 F2. -/
def aTxt : DirEntry :=
  ⟨0, ⟨0x42, 3, 4, [0x41, 0x20, 0x20, 0x20, 0x20, 0x20, 0x20, 0x20], [0x54, 0x58, 0x54]⟩⟩
/-- `H(p, S)` of 95 section 5, with both fields below 256 or `S` a multiple of 256. -/
def header (p lo hi : Byte) : List Byte := [0x96, 0x02, p, 0, lo, hi] ++ List.replicate 10 0

/-! ## Well-formedness: a term that each check refuses -/

theorem test_illFormed_frameIn : (Instr.frameIn (List.replicate 256 0) 0 0).wellFormed = false := by
  decide +kernel
theorem test_illFormed_writeDataFrame : (Instr.writeDataFrame (List.replicate 127 0) 0 0).wellFormed = false := by
  decide +kernel
theorem test_illFormed_replyDataA : (Instr.replyDataA (List.replicate 256 0)).wellFormed = false := by
  decide +kernel
theorem test_illFormed_replyDataB : (Instr.replyDataB (List.replicate 256 0)).wellFormed = false := by
  decide +kernel
theorem test_illFormed_cmdRChunk : (Instr.cmdRChunk 0x31 1 0xFF).wellFormed = false := by
  decide +kernel
theorem test_illFormed_writeData : (Instr.writeData (List.replicate 256 0) 0).wellFormed = false := by
  decide +kernel
theorem test_illFormed_other : (Instr.other 0x53).wellFormed = false := by
  decide +kernel
theorem test_illFormed_emptyOrShort : (Instr.emptyOrShort [0x53, 0x31]).wellFormed = false := by
  decide +kernel
theorem test_illFormed_dirEntryStruct :
    (Instr.dirEntryStruct ⟨0, 0, 0, List.replicate 7 0, List.replicate 3 0⟩).wellFormed = false := by
  decide +kernel
theorem test_illFormed_vtocStruct :
    (Instr.vtocStruct ⟨2, [0, 0], 0, List.replicate 5 0, List.replicate 89 0⟩).wellFormed = false := by
  decide +kernel
theorem test_illFormed_vtoc2Struct :
    (Instr.vtoc2Struct ⟨List.replicate 84 0, List.replicate 37 0, 0⟩).wellFormed = false := by
  decide +kernel
theorem test_illFormed_dispatch : (Instr.dispatch (List.replicate 256 0) 0).wellFormed = false := by
  decide +kernel
theorem test_illFormed_decodeCommand : (Instr.decodeCommand (List.replicate 256 0) 0).wellFormed = false := by
  decide +kernel
/-- A zero cell, a descending list, a cell past the last sector: none is canonical (log 9). -/
theorem test_illFormed_encodeImage :
    (Instr.encodeImage ⟨1, .s128, false, [(0, 0)]⟩).wellFormed = false ∧
    (Instr.encodeImage ⟨1, .s128, false, [(1, 1), (0, 1)]⟩).wellFormed = false ∧
    (Instr.encodeImage ⟨1, .s128, false, [(128, 1)]⟩).wellFormed = false ∧
    (Instr.encodeImage ⟨1, .s128, false, [(127, 1)]⟩).wellFormed = true := by
  decide +kernel
theorem test_illFormed_entryKind :
    (Instr.entryKind ⟨0, ⟨0, 0, 0, List.replicate 8 0, List.replicate 2 0⟩⟩).wellFormed = false := by
  decide +kernel
theorem test_illFormed_entryName :
    (Instr.entryName ⟨0, ⟨0, 0, 0, List.replicate 9 0, List.replicate 3 0⟩⟩).wellFormed = false := by
  decide +kernel

/-! ## Words written out from the spec's encodings, one for each row that has an encoding. Each is also a witness of the
statements DecodeOfEncodeIsIdentity and DecodedInstructionIsWellFormed. -/

/-- What the decoder reads. -/
def reads (f : Format) (now : Time) (bs : List Byte) : Option (Instr × List Byte) :=
  match decode f now bs with
  | .ok v => some v
  | .error _ => none

/-- Why the decoder refuses. -/
def refuses (f : Format) (bs : List Byte) : Option DecodeError :=
  match decode f 0 bs with
  | .ok _ => none
  | .error e => some e

/-- `bs` is the encoding of `i` and decodes to it, whole. -/
abbrev IsWord (f : Format) (bs : List Byte) (i : Instr) : Prop :=
  reads f i.stamp bs = some (i, []) ∧ i.wellFormed = true ∧ encode i = some (f, bs)

/-- 95 E1. -/
theorem test_word_frameIn : IsWord .frame [0x02, 0x53, 0x31, 0x84] (.frameIn [0x53, 0x31] 0x84 9) := by
  decide +kernel
/-- 95 W1: length 0x80, 128 bytes, checksum 0x55. -/
theorem test_word_writeDataFrame :
    IsWord .dataFrame (0x80 :: List.replicate 128 0xAA ++ [0x55])
      (.writeDataFrame (List.replicate 128 0xAA) 0x55 9) := by
  decide +kernel
/-- 95 O3, variant A. -/
theorem test_word_replyDataA : IsWord .replyA [0x04, 0x10, 0, 0x05, 0, 0x15] (.replyDataA [0x10, 0, 0x05, 0]) := by
  decide +kernel
/-- 95 O3, variant B. -/
theorem test_word_replyDataB : IsWord .replyB [0x43, 0x10, 0, 0x05, 0, 0x15] (.replyDataB [0x10, 0, 0x05, 0]) := by
  decide +kernel
theorem test_word_cmdS : IsWord .command [0x53, 0x31] (.cmdS 0x31) := by
  decide +kernel
/-- 95 RD6: sector 1, offset 96. -/
theorem test_word_cmdRChunk : IsWord .command [0x52, 0x31, 0x01, 0x00, 0x60] (.cmdRChunk 0x31 1 96) := by
  decide +kernel
/-- 95 RD3: sector 720 = 0x02D0. -/
theorem test_word_cmdRProbe : IsWord .command [0x52, 0x31, 0xD0, 0x02, 0xFF] (.cmdRProbe 0x31 720) := by
  decide +kernel
/-- 95 W6: sector 721. -/
theorem test_word_cmdW : IsWord .command [0x57, 0x31, 0xD1, 0x02] (.cmdW 0x31 721) := by
  decide +kernel
/-- 95 K20. -/
theorem test_word_cmdP : IsWord .command [0x50, 0x32, 0xD0, 0x02] (.cmdP 0x32 720) := by
  decide +kernel
/-- The pending data of 95 W9, as the armed dispatcher takes it. -/
theorem test_word_writeData : IsWord .data [0x57, 0x31, 0x02, 0x00] (.writeData [0x57, 0x31, 0x02, 0x00] 9) := by
  decide +kernel
theorem test_word_other : IsWord .command [0x21] (.other 0x21) := by
  decide +kernel
/-- 95 W11. -/
theorem test_word_emptyOrShort : IsWord .command [0x57, 0x31, 0x01] (.emptyOrShort [0x57, 0x31, 0x01]) := by
  decide +kernel
theorem test_word_codeA : IsWord .code [0x41] .codeA := by
  decide +kernel
theorem test_word_codeC : IsWord .code [0x43] .codeC := by
  decide +kernel
theorem test_word_codeE : IsWord .code [0x45] .codeE := by
  decide +kernel
theorem test_word_codeN : IsWord .code [0x4E] .codeN := by
  decide +kernel
/-- The header of 95 S15. -/
theorem test_word_imageHeader :
    IsWord .header [0x96, 0x02, 0xE8, 0x2C, 0x00, 0x01, 0, 0, 0, 0, 0, 0, 0, 0, 0, 0] (.imageHeader 11496 256) := by
  decide +kernel
/-- 95 ST2. -/
theorem test_word_statusPayload : IsWord .status [0x18, 0x00, 0x05, 0x00] (.statusPayload 0x18 0x00 0x00) := by
  decide +kernel
/-- Entry 0 of image F. -/
theorem test_word_dirEntryStruct : IsWord .dirEntry entryF (.dirEntryStruct aTxt.record) := by
  decide +kernel
/-- Bytes 0 to 99 of sector 360 of image F: free count 704. -/
theorem test_word_vtocStruct :
    IsWord .vtoc (vtocF.take 100) (.vtocStruct ⟨2, [0xC3, 0x02], 704, [0, 0, 0, 0, 0],
      [0x01] ++ List.replicate 44 0xFF ++ [0x00, 0x7F] ++ List.replicate 43 0xFF⟩) := by
  decide +kernel
/-- Bytes 0 to 123 of sector 1024 of image G: free count 303. -/
theorem test_word_vtoc2Struct :
    IsWord .vtoc2 (List.replicate 84 0 ++ [0x7F] ++ List.replicate 37 0xFF ++ [0x2F, 0x01])
      (.vtoc2Struct ⟨List.replicate 84 0, [0x7F] ++ List.replicate 37 0xFF, 303⟩) := by
  decide +kernel
/-- The tails of 95 section 6. -/
theorem test_word_chainTail :
    IsWord .tail [0x0D, 0x2C, 0x32] (.chainTail ⟨3, 300, 50⟩) ∧
    IsWord .tail [0xFF, 0xFF, 0x7D] (.chainTail ⟨63, 1023, 125⟩) := by
  decide +kernel
theorem test_word_rxByte : IsWord .line [0x02] (.rxByte 0x02 9) := by
  decide +kernel

/-- What the decoder refuses, by name. -/
theorem test_undecodable :
    refuses .frame [0x02, 0x53, 0x31] = some .tooFewBytes ∧ refuses .dataFrame [0x00, 0x00] = some .notADataFrame ∧
    refuses .replyA [0x01, 0x05, 0x06] = some .badReplyChecksum ∧
    refuses .replyB [0x41, 0x05, 0x05] = some .noCompletePrefix ∧ refuses .code [0x42] = some .notAReplyCode ∧
    refuses .command (List.replicate 256 0) = some .payloadTooLong ∧
    refuses .header (0x02 :: 0x96 :: List.replicate 14 0) = some .badMagic ∧
    refuses .status [0x10, 0x00, 0x06, 0x00] = some .badTimeoutByte := by decide +kernel

/-- A word of the table is read as a command's payload, or as a reply code. -/
theorem test_tableWord :
    decodeTableWord 16 0x3153 = some (.cmdS 0x31) ∧ decodeTableWord 40 0xFF02D03152 = some (.cmdRProbe 0x31 720) ∧
    decodeTableWord 8 0x45 = some .codeE := ⟨rfl, rfl, rfl⟩

/-- The first step after reset runs the placed word: slot 0 is empty, so `S` gets `E`. -/
theorem test_step_withFetchWord :
    (match step (State.reset.withFetchWord 16 0x3153) with
      | .next t => some (t.outTx, t.outLog)
      | .fault _ => none
      | .refused _ => none) = some ([[0x45]], [.driveEmpty 0]) := by decide

/-! ## Single steps: the vectors of spec 95 -/

/-- E1. -/
theorem test_frameIn_status : sends (.frameIn [0x53, 0x31] 0x84 0) blank = some [[0x04, 0x10, 0, 0x05, 0, 0x15]] := by
  decide +kernel
/-- E2. -/
theorem test_frameIn_badChecksum : (after (.frameIn [0x53, 0x31] 0x85 0) blank).map
    (fun t => (t.outTx, t.outLog, t.fePhase)) = some ([], [.checksumMismatch], .awaitLen) := by decide +kernel
/-- W1: the data frame, armed. -/
theorem test_writeDataFrame_commits :
    (after (.writeDataFrame (List.replicate 128 0xAA) 0x55 13500) (armed 0x31 1)).map
      (fun t => ((t.outTx, t.dpWp), (t.dpDeferred, t.outNote), (t.image 0).map (·.sector 1))) =
    some (([[0x41]], none), ([⟨14000, [0x43]⟩], [.diskChanged 0 1]), some (List.replicate 128 0xAA)) := by
  decide +kernel
/-- W12: the same frame, not armed. -/
theorem test_writeDataFrame_unarmed :
    logs (.writeDataFrame (List.replicate 128 0xAA) 0x55 0) blank = some [.unknownCommand 0xAA] := by decide +kernel
/-- O3. -/
theorem test_replyDataA : sends (.replyDataA [0x10, 0, 0x05, 0]) blank = some [[0x04, 0x10, 0, 0x05, 0, 0x15]] := by
  decide
theorem test_replyDataB : sends (.replyDataB [0x10, 0, 0x05, 0]) variantB = some [[0x43, 0x10, 0, 0x05, 0, 0x15]] := by
  decide
/-- ST2. -/
theorem test_cmdS_locked : sends (.cmdS 0x31) locked = some [[0x04, 0x18, 0, 0x05, 0, 0x1D]] := by decide +kernel
/-- ST3, ST4. -/
theorem test_cmdS_enhanced :
    sends (.cmdS 0x31) (loaded ⟨1024, .s128, false, []⟩) = some [[0x04, 0x90, 0, 0x05, 0, 0x95]] ∧
    sends (.cmdS 0x31) (loaded ⟨1023, .s128, false, []⟩) = some [[0x04, 0x10, 0, 0x05, 0, 0x15]] := by decide +kernel
/-- RD6 on sector 4 of image F: bytes 96 to 127, the tail among them; their sum is 3320, and 3319 mod 255 + 1 = 5. -/
theorem test_cmdRChunk_lastOffset :
    (after (.cmdRChunk 0x31 4 96) diskF).map (fun t => t.outTx.map fun bs => (bs.length, bs.take 3, bs.drop 30)) =
      some [(34, [0x20, 0x60, 0x61], [0x00, 0x05, 0x7D, 0x05])] := by
  decide +kernel
/-- RD7. -/
theorem test_cmdRChunk_badOffset : logs (.cmdRChunk 0x31 1 97) blank = some [.invalidOffset 97] := by decide +kernel
/-- RD3, RD4. -/
theorem test_cmdRProbe :
    sends (.cmdRProbe 0x31 720) blank = some [[0x41]] ∧ sends (.cmdRProbe 0x31 721) blank = some [[0x45]] := by
  decide +kernel
/-- RD13. -/
theorem test_cmdRProbe_wide : logs (.cmdRProbe 0x31 4) wide = some [.sectorNot128 4] := by decide +kernel
/-- W6: nothing is checked and nothing is sent. -/
theorem test_cmdW : (after (.cmdW 0x39 721) blank).map (fun t => (t.dpWp, t.outTx)) = some (some ⟨0x39, 721⟩, []) := by
  decide
theorem test_cmdP : (after (.cmdP 0x31 1) blank).map (fun t => (t.dpWp, t.outTx)) = some (some ⟨0x31, 1⟩, []) := by
  decide
/-- W9. -/
theorem test_writeData_short :
    (after (.writeData [0x57, 0x31, 0x02, 0x00] 0) (armed 0x31 1)).map (fun t => (t.outTx, t.outLog, t.dpWp)) =
      some ([[0x45]], [.badWriteLength 4], none) := by decide +kernel
/-- W3. -/
theorem test_writeData_locked :
    logs (.writeData (List.replicate 128 0xAA) 0) { locked with dpWp := some ⟨0x31, 1⟩ } = some [.diskLocked] := by
  decide +kernel
/-- X4. -/
theorem test_other : (after (.other 0x4E) blank).map (fun t => (t.outTx, t.outLog)) =
    some ([[0x45]], [.unknownCommand 0x4E]) := by decide
/-- E3. -/
theorem test_emptyOrShort : (after (.emptyOrShort []) blank).map (fun t => (t.outTx, t.outLog)) =
    some ([[0x45]], [.shortFrame]) := by decide
theorem test_codes :
    sends .codeA blank = some [[0x41]] ∧ sends .codeC blank = some [[0x43]] ∧ sends .codeE blank = some [[0x45]] ∧
    sends .codeN blank = some [[0x4E]] := by decide
/-- The header of S15: 183 936 bytes. S8: a size of 512 is refused. -/
theorem test_imageHeader :
    answers (.imageHeader 11496 256) blank = some (.header 183936 .s256) ∧
    answers (.imageHeader 8 512) blank = some (.refused (.unsupportedSectorSize 512)) := by decide
theorem test_statusPayload : answers (.statusPayload 0x98 0 0) blank = some (.bytes [0x98, 0x00, 0x05, 0x00]) := by
  decide
/-- F17: 0x62 is live and locked. -/
theorem test_dirEntryStruct :
    answers (.dirEntryStruct { aTxt.record with flags := 0x62 }) blank = some (.entryFlags false true true .live) := by
  decide
/-- F6, from the fields alone: 704 free sectors, the first of them 7. -/
theorem test_vtocStruct :
    (match answers (.vtocStruct ⟨2, [0xC3, 0x02], 704, [0, 0, 0, 0, 0],
        [0x01] ++ List.replicate 44 0xFF ++ [0x00, 0x7F] ++ List.replicate 43 0xFF⟩) blank with
      | some (.vtoc v n free) => some (v, n, free.length, free.head?)
      | _ => none) = some (2, 704, 704, some 7) := by decide +kernel
/-- Image G: 303 free sectors from 721 on. -/
theorem test_vtoc2Struct :
    (match answers (.vtoc2Struct ⟨List.replicate 84 0, [0x7F] ++ List.replicate 37 0xFF, 303⟩) blank with
      | some (.vtoc2 n free) => some (n, free.length, free.head?)
      | _ => none) = some (303, 303, some 721) := by decide +kernel
theorem test_chainTail : answers (.chainTail ⟨3, 300, 50⟩) blank = some (.tail ⟨3, 300, 50⟩) := by decide
/-- E1: after the length byte. -/
theorem test_rxByte_length : (after (.rxByte 0x02 0) blank).map (fun t => (t.feN, t.feRemaining, t.fePhase)) =
    some (2, 3, .accum) := by decide
/-- E5 and E6: the gap, and exactly `T_IDLE`. -/
theorem test_rxByte_idle :
    (after (.rxByte 0x02 1000001) (inFrame 5 4 [0x52, 0x31])).map (fun t => (t.feN, t.feBuf)) = some (2, []) ∧
    (after (.rxByte 0x01 1000000) (inFrame 5 4 [0x52, 0x31])).map (fun t => (t.feN, t.feRemaining, t.feBuf)) =
      some (5, 3, [0x52, 0x31, 0x01]) := by decide
theorem test_feReset : (after .feReset (inFrame 5 4 [0x52, 0x31])).map (fun t => (t.fePhase, t.feBuf, t.feLastRx)) =
    some (.awaitLen, [], some 0) := by decide
/-- O2. -/
theorem test_sendCode : sends (.sendCode .E) variantB = some [[0x45]] := by decide
/-- O5. -/
theorem test_sendPayloadA : (after (.sendPayloadA ((List.range 32).map (BitVec.ofNat 8))) blank).map
    (fun t => t.outTx.map fun bs => (bs.length, bs.take 3, bs.drop 32)) = some [(34, [0x20, 0, 1], [0x1F, 0xF1])] := by
  decide +kernel
theorem test_sendPayloadB : (after (.sendPayloadB ((List.range 32).map (BitVec.ofNat 8))) variantB).map
    (fun t => t.outTx.map fun bs => (bs.length, bs.take 3, bs.drop 32)) = some [(34, [0x43, 0, 1], [0x1F, 0xF1])] := by
  decide +kernel
/-- E8: reply codes inside a payload are data, and 0x41 is no command. -/
theorem test_dispatch : logs (.dispatch [0x41, 0x43, 0x45] 0) blank = some [.unknownCommand 0x41] := by decide
/-- W9: while armed, a command frame is data. -/
theorem test_dispatch_armed : logs (.dispatch [0x57, 0x31, 0x02, 0x00] 0) (armed 0x31 1) = some [.badWriteLength 4] := by
  decide +kernel
/-- ST8: extra bytes are ignored. RD10: four bytes are too short for `R`. -/
theorem test_decodeCommand :
    sends (.decodeCommand [0x53, 0x31, 0, 0, 0] 0) blank = some [[0x04, 0x10, 0, 0x05, 0, 0x15]] ∧
    logs (.decodeCommand [0x52, 0x31, 0x01, 0x00] 0) blank = some [.shortFrame] := by decide +kernel
/-- 42 R172: the ends of the range. -/
theorem test_resolveDrive :
    answers (.resolveDrive 0x31) blank = some (.disk 0) ∧
    answers (.resolveDrive 0x38) blank = some (.error (.driveEmpty 7)) ∧
    answers (.resolveDrive 0x39) blank = some (.error (.invalidDrive 0x39)) ∧
    answers (.resolveDrive 0x30) blank = some (.error (.invalidDrive 0x30)) := by decide
theorem test_replyError : (after (.replyError .diskLocked) blank).map (fun t => (t.outTx, t.outLog)) =
    some ([[0x45]], [.diskLocked]) := by decide
/-- Program 2: `C` at 14 000 and not before (here due at 500). -/
theorem test_fireDeferred :
    (after (.fireDeferred 500) waiting).map (fun t => (t.outTx, t.dpDeferred)) = some ([[0x43]], []) ∧
    answers (.fireDeferred 499) waiting = some .notAdmitted := by decide
/-- 95 section 5. -/
theorem test_sector :
    answers (.sector 0 720) blank = some (.maybeBytes (some (List.replicate 128 0))) ∧
    (after (.sector 0 721) blank).map (fun t => (t.ret, t.outLog)) =
      some (.maybeBytes none, [.invalidSectorNumber 721]) := by decide +kernel
/-- 95 section 5: the lock is not looked at; a 256-byte buffer does not fit sector 5. -/
theorem test_writeSector :
    (after (.writeSector 0 5 (List.replicate 128 1)) locked).map (fun t => (t.image 0).map (·.sector 5)) =
      some (some (List.replicate 128 1)) ∧
    (after (.writeSector 0 5 (List.replicate 256 1)) blank).map (fun t => (t.disks, t.outLog)) =
      some (blank.disks, [.badSectorLength 5 256]) := by decide +kernel
theorem test_imageSize :
    answers (.imageSize 0) blank = some (.number 92160) ∧ answers (.imageSize 0) wide = some (.number 183936) := by
  decide
theorem test_numSectors : answers (.numSectors 0) wide = some (.number 720) := by decide
/-- The sector count, the sector size and the first error of a decoded file. -/
def shape (file : List Byte) : Option (Nat × SectorSize) × Option Answer :=
  match answers (.decodeImage file) blank with
  | some (.image img) => (some (img.count, img.sectorSize), none)
  | a => (none, a)
/-- S2, S9, S10, S11, S11b. -/
theorem test_decodeImage_slices :
    shape (header 0 128 0 ++ [7]) = (some (0, .s128), none) ∧
    shape (header 40 0 1 ++ List.replicate 740 7) = (some (4, .s256), none) ∧
    shape (header 24 0 1 ++ List.replicate 639 7) = (some (3, .s256), none) ∧
    shape (header 0 128 0 ++ List.replicate 300 7) = (some (2, .s128), none) ∧
    shape (header 8 128 0 ++ List.replicate 256 7) = (some (2, .s128), none) := by decide +kernel
/-- S1, S3, S4, S6, S7, S8. -/
theorem test_decodeImage_failures :
    shape (header 0 128 0) = (none, some (.error (.corruptImage .tooShort))) ∧
    shape (0x02 :: 0x96 :: List.replicate 142 0) = (none, some (.error (.corruptImage .badMagic))) ∧
    shape (header 9 128 0 ++ List.replicate 128 7) = (none, some (.error (.corruptImage .sizeExceedsData))) ∧
    shape (header 8 0 0 ++ List.replicate 128 7) = (none, some (.error (.corruptImage .zeroSectorSize))) ∧
    shape (header 9 0 0 ++ List.replicate 128 7) = (none, some (.error (.corruptImage .sizeExceedsData))) ∧
    shape (header 8 0 2 ++ List.replicate 128 7) = (none, some (.refused (.unsupportedSectorSize 512))) := by
  decide +kernel
/-- S17, S19. -/
theorem test_encodeImage :
    answers (.encodeImage ⟨8192, .s128, false, []⟩) blank = some (.refused (.imageTooLarge 65536)) ∧
    answers (.encodeImage ⟨0, .s128, false, []⟩) blank = some (.bytes (header 0 128 0)) := by decide +kernel
/-- The header bytes of S18: a locked image of one sector encodes as an unlocked one. -/
theorem test_encodeImage_lock :
    answers (.encodeImage ⟨1, .s128, true, [(127, 9)]⟩) blank =
      some (.bytes (header 8 128 0 ++ List.replicate 127 0 ++ [9])) := by decide +kernel
theorem test_createEmpty : answers .createEmpty State.reset = some (.image ⟨720, .s128, false, []⟩) := by decide
theorem test_envSector : answers (.envSector 0 1) locked = some (.maybeBytes (some (List.replicate 128 0))) := by
  decide +kernel
/-- 95 section 5: on a locked image nothing is written; on an unlocked one the write is notified. -/
theorem test_envWriteSector :
    (after (.envWriteSector 0 5 (List.replicate 128 1)) locked).map (fun t => (t.ret, t.disks, t.outNote)) =
      some (.error .diskLocked, locked.disks, []) ∧
    (after (.envWriteSector 0 5 (List.replicate 128 1)) blank).map
      (fun t => (t.outNote, (t.image 0).map (·.sector 5))) =
      some ([.diskChanged 0 5], some (List.replicate 128 1)) := by decide +kernel
/-- H9. -/
theorem test_openTransport :
    (after .openTransport { inFrame 5 4 [0x52, 0x31] with dpWp := some ⟨0x31, 1⟩, dpDeferred := [⟨500, [0x43]⟩] }).map
      (fun t => ((t.fePhase, t.feBuf, t.feLastRx), (t.dpWp, t.dpDeferred))) =
    some ((.awaitLen, [], none), (some ⟨0x31, 1⟩, [⟨500, [0x43]⟩])) := by decide
/-- W14, W15. -/
theorem test_closeTransport :
    (after .closeTransport { waiting with dpWp := some ⟨0x31, 1⟩ }).map (fun t => (t.trOpen, t.dpWp, t.dpDeferred)) =
      some (false, none, []) := by decide
/-- H1. -/
theorem test_newImage : (after .newImage State.reset).map (fun t => (t.ret, t.disks)) =
    some (.disk 0, [(0, ⟨720, .s128, false, []⟩)]) := by decide
/-- H7; and S5 stored. -/
theorem test_loadImage :
    (after (.loadImage (0x02 :: 0x96 :: List.replicate 142 0)) blank).map (fun t => (t.ret, t.disks)) =
      some (.error (.corruptImage .badMagic), blank.disks) ∧
    (after (.loadImage (header 8 128 0 ++ List.replicate 127 0 ++ [9])) blank).map (fun t => (t.ret, t.disks)) =
      some (.disk 1, [(0, Image.empty), (1, ⟨1, .s128, false, [(127, 9)]⟩)]) := by decide +kernel
theorem test_saveImage :
    answers (.saveImage 0) (loaded ⟨1, .s256, true, [(127, 9)]⟩) =
      some (.bytes (header 8 0 1 ++ List.replicate 127 0 ++ [9])) := by decide +kernel
/-- H6. -/
theorem test_destroyImage : (after (.destroyImage 0) blank).map (fun t => (t.disks, t.dpSlot, t.outNote)) =
    some ([], Slots.empty, [.mountChanged]) := by decide
/-- H8. -/
theorem test_setLock : (after (.setLock 0 true) blank).map (fun t => ((t.image 0).map (·.lock), t.outNote)) =
    some (some true, []) := by decide
/-- H2, H5. -/
theorem test_mount :
    (after (.mount 0 3) blank).map (fun t => (t.dpSlot, t.outNote)) =
      some ({ Slots.empty with slot3 := some 0 }, [.mountChanged]) ∧
    (after (.mount 0 8) blank).map (fun t => (t.ret, t.dpSlot, t.outNote)) =
      some (.refused (.mountRefused 0 8), blank.dpSlot, []) := by decide
/-- H4. -/
theorem test_unmount : (after (.unmount 5) blank).map (fun t => (t.dpSlot, t.outNote)) =
    some (blank.dpSlot, [.mountChanged]) := by decide
/-- K1, K6, K7, K9, K11, K15, K16. -/
theorem test_checksum :
    checksum [] = 0x00 ∧ checksum [0xFF, 0x01] = 0x01 ∧ checksum [0x01, 0xFF] = 0x01 ∧
    checksum [0xFF, 0xFF, 0xFF] = 0xFF ∧ checksum [0x80, 0x80] = 0x01 ∧ checksum [0xFF, 0x01, 0x80, 0xFF] = 0x81 ∧
    answers (.checksum [0x53, 0x31]) blank = some (.byte 0x84) := by decide
/-- K10, K24, K26, K30. -/
theorem test_checksum_long :
    checksum (List.replicate 255 0xFF) = 0xFF ∧ checksum ((List.range 32).map (BitVec.ofNat 8)) = 0xF1 ∧
    checksum ((List.range 128).map (BitVec.ofNat 8)) = 0xDF ∧
    checksum ((List.range 128).map fun i => BitVec.ofNat 8 ((3 * i + 1) % 256)) = 0xF4 := by decide +kernel
/-- 20 R62: the last two bytes of sector 6 of image F and one before them; a sector that does not exist. -/
theorem test_memRead :
    answers (.memRead 0 6 125 3) diskF = some (.maybeBytes (some [0x00, 0x00, 0x32])) ∧
    answers (.memRead 0 0 0 1) diskF = some (.maybeBytes none) := by decide +kernel
theorem test_memWrite :
    (after (.memWrite 0 720 (List.replicate 128 1)) blank).map
      (fun t => ((t.image 0).map (·.sector 720), (t.image 0).map (·.sector 719))) =
    some (some (List.replicate 128 1), some (List.replicate 128 0)) := by decide +kernel
/-- 95 section 5. -/
theorem test_len : answers (.len 0 3) wide = some (.number 128) ∧ answers (.len 0 4) wide = some (.number 256) := by
  decide
/-- F0, F1. -/
theorem test_isDos2 :
    answers (.isDos2 0) blank = some (.truth false) ∧ answers (.isDos2 0) diskF = some (.truth true) := by decide +kernel
theorem test_vtocVersion : answers (.vtocVersion 0) diskF = some (.byte 2) := by decide +kernel
theorem test_vtocFreeCount : answers (.vtocFreeCount 0) diskF = some (.word 704) := by decide +kernel
/-- F7 and image G. -/
theorem test_hasVtoc2 :
    answers (.hasVtoc2 0) diskF = some (.truth false) ∧ answers (.hasVtoc2 0) diskG = some (.truth true) := by
  decide +kernel
theorem test_vtoc2FreeCount :
    answers (.vtoc2FreeCount 0) diskF = some (.error .noVtoc2) ∧ answers (.vtoc2FreeCount 0) diskG = some (.word 303) := by
  decide +kernel
/-- F5. -/
theorem test_sectorIsFree :
    answers (.sectorIsFree 0 6) diskF = some (.freeness .used) ∧
    answers (.sectorIsFree 0 7) diskF = some (.freeness .free) ∧
    answers (.sectorIsFree 0 368) diskF = some (.freeness .used) ∧
    answers (.sectorIsFree 0 719) diskF = some (.freeness .free) ∧
    answers (.sectorIsFree 0 720) diskF = some (.freeness .notCovered) := by decide +kernel
/-- Image G. -/
theorem test_sectorIsFree_vtoc2 :
    answers (.sectorIsFree 0 720) diskG = some (.freeness .used) ∧
    answers (.sectorIsFree 0 1023) diskG = some (.freeness .free) ∧
    answers (.sectorIsFree 0 1024) diskG = some (.freeness .notCovered) := by decide +kernel
/-- F6, with bytes 10 and 56 of image F's sector 360 as the only ones of the bitmap that are not zero. -/
theorem test_freeSectorList :
    answers (.freeSectorList 0) (bits 720) = some (.numbers [7, 369, 370, 371, 372, 373, 374, 375]) := by
  decide +kernel
/-- The same disk with 1024 sectors and byte 84 of sector 1024 as in image G: 721 to 727 are free too. -/
theorem test_bitmapFreeCount :
    answers (.bitmapFreeCount 0) (bits 720) = some (.number 8) ∧
    answers (.bitmapFreeCount 0) (bits 1024) = some (.number 15) := by decide +kernel
/-- F2, F8. -/
theorem test_dirEntry :
    answers (.dirEntry 0 0) diskF = some (.entry aTxt) ∧
    answers (.dirEntry 0 64) diskF = some (.error .badEntryIndex) := by decide +kernel
/-- F17, F15. -/
theorem test_entryKind :
    answers (.entryKind { aTxt with record := { aTxt.record with flags := 0xC2 } }) blank = some (.kind .other) ∧
    answers (.entryKind { aTxt with record := { aTxt.record with flags := 0x80 } }) blank = some (.kind .freeSlot) := by
  decide
/-- F2. -/
theorem test_directory : answers (.directory 0) (small [0, 7, 2] [0, 0, 1]) = some (.entries [aTxt]) := by decide +kernel
/-- F2: `A.TXT`. F16: `README`. -/
theorem test_entryName :
    answers (.entryName aTxt) blank = some (.bytes [0x41, 0x2E, 0x54, 0x58, 0x54]) ∧
    answers (.entryName ⟨9, ⟨0x62, 1, 7, [0x52, 0x45, 0x41, 0x44, 0x4D, 0x45, 0x20, 0x20], [0x20, 0x20, 0x20]⟩⟩) blank =
      some (.bytes [0x52, 0x45, 0x41, 0x44, 0x4D, 0x45]) := by decide
/-- F3, F8. -/
theorem test_tail :
    answers (.tail 0 5) diskF = some (.tail ⟨0, 6, 125⟩) ∧
    answers (.tail 0 721) diskF = some (.error (.invalidSector 721)) := by decide +kernel
/-- F4 and F13, in small: the bytes of two linked sectors; a length byte of 0 in the first. -/
theorem test_fileContents :
    answers (.fileContents 0 4 0) (small [0, 7, 2] [0, 0, 1]) = some (.bytes [0x48, 0x45, 0x4C]) ∧
    answers (.fileContents 0 4 0) (small [0, 7, 0] [0, 0, 1]) = some (.bytes [0x4C]) := by decide +kernel
/-- F9, F10, F11, F12, in small: a tag of 1, a link back to sector 4, a link to sector 768, a length byte of 126. -/
theorem test_fileContents_errors :
    answers (.fileContents 0 4 0) (small [0, 7, 2] [4, 0, 1]) = some (.error (.fileNumberMismatch 7 1)) ∧
    answers (.fileContents 0 4 0) (small [0, 7, 2] [0, 4, 1]) = some (.error (.chainLoop 7)) ∧
    answers (.fileContents 0 4 0) (small [0, 7, 2] [3, 0, 1]) = some (.error (.invalidSector 768)) ∧
    answers (.fileContents 0 4 0) (small [0, 7, 126] [0, 0, 1]) = some (.error (.badDataLength 4 126)) := by
  decide +kernel

/-! ## Witnesses: states and operands that meet the premises of the statements, each clause for itself, at the ends of
its ranges. The word tests above are those of DecodeOfEncodeIsIdentity, and with this witness of
DecodedInstructionIsWellFormed. -/

/-- An item with a byte after it and one byte too few; a byte that is no reply code; a reply of 255 bytes and an empty one
with a bad checksum; data frames of 127 and 129 bytes; payloads one byte too long; the magic with its bytes swapped; a
timeout of 6. -/
theorem witness_DecodedInstructionIsWellFormed :
    decode .frame 0 [0x02, 0x53, 0x31, 0x84, 0x07] = .ok (.frameIn [0x53, 0x31] 0x84 0, [0x07]) ∧
    ([0x02, 0x53, 0x31] : List Byte).length < itemLength .frame [0x02, 0x53, 0x31] ∧
    ((0x42 : Byte) ≠ 0x41 ∧ (0x42 : Byte) ≠ 0x43 ∧ (0x42 : Byte) ≠ 0x45 ∧ (0x42 : Byte) ≠ 0x4E) ∧
    ((List.replicate 255 (0xFF : Byte)).length ≤ 255 ∧ (0x00 : Byte) ≠ checksum (List.replicate 255 0xFF)) ∧
    (([] : List Byte).length ≤ 255 ∧ (0x01 : Byte) ≠ checksum []) ∧
    ((List.replicate 127 (0 : Byte)).length ≠ 128 ∧ (List.replicate 129 (0 : Byte)).length ≠ 128) ∧
    ((0x41 : Byte) ≠ 0x43 ∧ 255 < (List.replicate 256 (0 : Byte)).length ∧
      256 < (List.replicate 257 (0 : Byte)).length) ∧
    (16 ≤ (0x02 :: 0x96 :: List.replicate 14 (0 : Byte)).length ∧
      (0x02 :: 0x96 :: List.replicate 14 (0 : Byte)).take 2 ≠ [0x96, 0x02]) ∧
    (0x06 : Byte) ≠ 5 := ⟨rfl, by decide +kernel⟩

/-- The disk of `loaded img` is found by selector 0x31. -/
theorem drive_loaded (img : Image) : (loaded img).drive 0x31 0 img := by
  refine ⟨by decide, by decide, rfl, ?_⟩
  simp [State.image, loaded, findDisk]

theorem witness_CommandCodeMap :
    ((0x21 : Byte) ≠ 0x53 ∧ (0x21 : Byte) ≠ 0x52 ∧ (0x21 : Byte) ≠ 0x57 ∧ (0x21 : Byte) ≠ 0x50) ∧
    ([] : List Byte).length < 1 ∧ ([0x31, 1, 0] : List Byte).length < 4 ∧ ([0x31, 1] : List Byte).length < 3 := by
  decide

theorem witness_StepRunsTheNextInstruction :
    (asked (.call (.cmdS 0x31))).inputs = .call (.cmdS 0x31) :: [] ∧ (Instr.cmdS 0x31).wellFormed = true ∧
    (asked (.call (.other 0x53))).inputs = .call (.other 0x53) :: [] ∧ (Instr.other 0x53).wellFormed = false ∧
    (asked (.encoded .line 9 [0x02, 0x53])).inputs = .encoded .line 9 [0x02, 0x53] :: [] ∧
    decode .line 9 [0x02, 0x53] = .ok (.rxByte 0x02 9, [0x53]) ∧ (Instr.rxByte 0x02 9).wellFormed = true ∧
    (asked (.encoded .code 9 [0x42])).inputs = .encoded .code 9 [0x42] :: [] ∧
    decode .code 9 [0x42] = .error .notAReplyCode ∧ blank.inputs = [] :=
  ⟨rfl, rfl, rfl, rfl, rfl, rfl, rfl, rfl, rfl, rfl⟩

theorem witness_StepKeepsInvariant :
    (asked (.call (.rxByte 0x02 0))).inv = true ∧
    ∃ t, step (asked (.call (.rxByte 0x02 0))) = .next t := ⟨by decide +kernel, _, rfl⟩

theorem witness_ChecksumHasClosedForm : [(0xFF : Byte), 0x01].Perm [0x01, 0xFF] := by decide

theorem witness_LengthByteStartsAFrame :
    (blank.trOpen = true ∧ blank.fePhase = .awaitLen ∧ ((0xFF : Byte) ≠ 0xFF ∨ blank.params.len255Degenerate = false)) ∧
    (degenerate.trOpen = true ∧ degenerate.fePhase = .awaitLen ∧
      ((0xFE : Byte) ≠ 0xFF ∨ degenerate.params.len255Degenerate = false)) ∧
    (0xFF : Byte) = 0xFF ∧ degenerate.params.len255Degenerate = true := by decide

/-- The time is exactly `T_IDLE` after the byte before. -/
theorem witness_ByteInFrameIsAppended :
    (inFrame 5 4 [0x52, 0x31]).trOpen = true ∧ (inFrame 5 4 [0x52, 0x31]).fePhase = .accum ∧
    (inFrame 5 4 [0x52, 0x31]).feRemaining ≠ 1 ∧
    ∀ last, (inFrame 5 4 [0x52, 0x31]).feLastRx = some last →
      1000000 ≤ last + (inFrame 5 4 [0x52, 0x31]).params.tIdle := by
  refine ⟨by decide, by decide, by decide, fun last h => ?_⟩
  cases h; decide

/-- A frame of two bytes with a good and a bad checksum, and the empty frame. -/
theorem witness_LastByteEndsTheFrame :
    (∀ s ∈ [inFrame 2 1 [0x53, 0x31], inFrame 0 1 []],
      s.trOpen = true ∧ s.fePhase = .accum ∧ s.feRemaining = 1 ∧ s.feBuf.length = s.feN.toNat ∧
      ∀ last, s.feLastRx = some last → 1000000 ≤ last + s.params.tIdle) ∧
    (0x84 : Byte) = checksum (inFrame 2 1 [0x53, 0x31]).feBuf ∧
    (0x85 : Byte) ≠ checksum (inFrame 2 1 [0x53, 0x31]).feBuf ∧ (0x00 : Byte) = checksum (inFrame 0 1 []).feBuf ∧
    (0x01 : Byte) ≠ checksum (inFrame 0 1 []).feBuf := by
  refine ⟨?_, by decide, by decide, by decide, by decide⟩
  intro s hs
  fin_cases hs <;> refine ⟨by decide, by decide, by decide, by decide, fun last h => ?_⟩ <;> cases h <;> decide

theorem witness_IdleGapForgetsThePartialFrame :
    (inFrame 5 4 [0x52, 0x31]).feLastRx = some 0 ∧ (inFrame 5 4 [0x52, 0x31]).trOpen = true ∧
    0 + (inFrame 5 4 [0x52, 0x31]).params.tIdle < 1000001 ∧ 1000000 ≤ 0 + (inFrame 5 4 [0x52, 0x31]).params.tIdle := by
  decide

theorem witness_GoodFrameIsDispatchedWhole :
    (blank.trOpen = true ∧ blank.fePhase = .awaitLen ∧ blank.slotsLive = true) ∧
    (degenerate.trOpen = true ∧ degenerate.fePhase = .awaitLen ∧ degenerate.slotsLive = true) ∧
    ((List.replicate 255 (0 : Byte)).length ≤ 255 ∧
      ((List.replicate 255 (0 : Byte)).length ≠ 255 ∨ blank.params.len255Degenerate = false)) ∧
    ((List.replicate 254 (0 : Byte)).length ≠ 255 ∨ degenerate.params.len255Degenerate = false) ∧
    (List.replicate 128 (0xAA : Byte)).length = 128 ∧
    ([] : List Byte).length ≤ 255 := by decide +kernel

theorem witness_BadChecksumDropsTheFrame :
    blank.trOpen = true ∧ blank.fePhase = .awaitLen ∧ (List.replicate 128 (0xAA : Byte)).length = 128 ∧
    ((List.replicate 128 (0xAA : Byte)).length ≠ 255 ∨ blank.params.len255Degenerate = false) ∧
    (0x54 : Byte) ≠ checksum (List.replicate 128 0xAA) ∧ (0x01 : Byte) ≠ checksum [] ∧
    (0x01 : Byte) ≠ checksum (List.replicate 255 0) := by decide +kernel

theorem witness_OnlyCloseEndsTheSession :
    blank.inv = true ∧ (∃ t, exec (.cmdS 0x39) blank = .next t) ∧ blank.trOpen = true ∧
    Instr.cmdS 0x39 ≠ .closeTransport := ⟨by decide +kernel, ⟨_, rfl⟩, rfl, by simp⟩

theorem witness_OnlyTheEnvironmentChangesMountsImagesAndLocks :
    (∃ t, exec .feReset blank = .next t) ∧ (∀ d k, Instr.feReset ≠ .mount d k) ∧
    (∀ d, Instr.feReset ≠ .unmount d) ∧ (∀ d, Instr.feReset ≠ .destroyImage d) ∧ Instr.feReset ≠ .newImage ∧
    (∀ file, Instr.feReset ≠ .loadImage file) ∧ (∀ d v, Instr.feReset ≠ .setLock d v) ∧
    (∃ t u, exec (.destroyImage 0) blank = .next t ∧ exec (.unmount 0) blank = .next u) := by
  refine ⟨⟨_, rfl⟩, ?_, ?_, ?_, ?_, ?_, ?_, _, _, rfl, rfl⟩ <;> simp

theorem witness_BytesAreAnsweredByLegalReplies :
    (∃ t, exec (.rxByte 0x84 0) (inFrame 2 1 [0x53, 0x31]) = .next t) ∧
    waiting.inv = true ∧ ∃ t, exec (.fireDeferred 500) waiting = .next t := by
  refine ⟨?_, by decide +kernel, _, rfl⟩
  have h : (after (.rxByte 0x84 0) (inFrame 2 1 [0x53, 0x31])).isSome = true := by decide +kernel
  revert h
  unfold after
  cases exec (.rxByte 0x84 0) (inFrame 2 1 [0x53, 0x31]) with
  | next t => exact fun _ => ⟨t, rfl⟩
  | fault f => exact fun h => Bool.noConfusion h
  | refused r => exact fun h => Bool.noConfusion h

/-- Disk 0 in no slot, and a locked disk 0 in slot 0. -/
theorem witness_BytesChangeOnlyMountedUnlockedImages :
    (∃ t, exec (.rxByte 0x02 0) { blank with dpSlot := Slots.empty } = .next t) ∧
    (∀ k, ({ blank with dpSlot := Slots.empty } : State).dpSlot.get k ≠ some 0) ∧
    (∃ t, exec (.rxByte 0x02 0) locked = .next t) ∧
    ∃ img, locked.image 0 = some img ∧ img.lock = true := by
  refine ⟨⟨_, rfl⟩, fun k => ?_, ⟨_, rfl⟩, _, rfl, rfl⟩
  show Slots.empty.get k ≠ some 0
  unfold Slots.get
  split <;> simp [Slots.empty]

theorem witness_GoodFrameIsDataWhenArmed :
    blank.slotsLive = true ∧ blank.dpWp = none ∧ (armed 0x31 1).slotsLive = true := by decide

theorem witness_StatusReply : blank.drive 0x31 0 Image.empty := drive_loaded _

/-- Sector 720 at offset 96, and sector 3 of a disk with 256-byte sectors at offset 0. -/
theorem witness_ReadChunkReply :
    blank.drive 0x31 0 Image.empty ∧ 1 ≤ (720 : BitVec 16).toNat ∧ (720 : BitVec 16).toNat ≤ Image.empty.count ∧
    ((720 : BitVec 16).toNat ≤ 3 ∨ Image.empty.sectorSize = .s128) ∧ (96 : Byte).toNat ≤ 96 ∧
    wide.drive 0x31 0 image256 ∧ 1 ≤ (3 : BitVec 16).toNat ∧ (3 : BitVec 16).toNat ≤ image256.count ∧
    ((3 : BitVec 16).toNat ≤ 3 ∨ image256.sectorSize = .s128) ∧ (0 : Byte).toNat ≤ 96 := by
  refine ⟨drive_loaded _, by decide, by decide, by decide, by decide, drive_loaded _, ?_⟩
  decide

theorem witness_ProbeReply :
    blank.slotsLive = true ∧
    (∃ d img, blank.drive 0x31 d img ∧ 1 ≤ (720 : BitVec 16).toNat ∧ (720 : BitVec 16).toNat ≤ img.count ∧
      ((720 : BitVec 16).toNat ≤ 3 ∨ img.sectorSize = .s128)) ∧
    ¬ ∃ d img, blank.drive 0x30 d img ∧ 1 ≤ (1 : BitVec 16).toNat ∧ (1 : BitVec 16).toNat ≤ img.count ∧
      ((1 : BitVec 16).toNat ≤ 3 ∨ img.sectorSize = .s128) := by
  refine ⟨by decide, ⟨0, Image.empty, drive_loaded _, by decide, by decide, by decide⟩, ?_⟩
  rintro ⟨d, img, ⟨h, -⟩, -⟩
  revert h; decide

theorem witness_StatusAndReadErrors :
    (((0x30 : Byte).toNat < 0x31 ∨ 0x38 < (0x30 : Byte).toNat) ∧ ((0x39 : Byte).toNat < 0x31 ∨ 0x38 < (0x39 : Byte).toNat)) ∧
    (0x31 ≤ (0x38 : Byte).toNat ∧ (0x38 : Byte).toNat ≤ 0x38 ∧ blank.dpSlot.get ((0x38 : Byte).toNat - 0x31) = none) ∧
    (blank.drive 0x31 0 Image.empty ∧ ((0 : BitVec 16) = 0 ∨ Image.empty.count < (0 : BitVec 16).toNat) ∧
      ((721 : BitVec 16) = 0 ∨ Image.empty.count < (721 : BitVec 16).toNat)) ∧
    (wide.drive 0x31 0 image256 ∧ 4 ≤ (4 : BitVec 16).toNat ∧ (4 : BitVec 16).toNat ≤ image256.count ∧
      image256.sectorSize = .s256) ∧
    1 ≤ (1 : BitVec 16).toNat ∧ (1 : BitVec 16).toNat ≤ Image.empty.count ∧
    ((1 : BitVec 16).toNat ≤ 3 ∨ Image.empty.sectorSize = .s128) ∧ 97 ≤ (97 : Byte).toNat ∧
    (97 : Byte).toNat ≤ 254 ∧ 97 ≤ (254 : Byte).toNat ∧ (254 : Byte).toNat ≤ 254 := by
  refine ⟨by decide, by decide, ⟨drive_loaded _, by decide, by decide⟩, ⟨drive_loaded _, by decide⟩, by decide⟩

theorem witness_WriteCommandArms : ((0x57 : Byte) = 0x57 ∨ (0x57 : Byte) = 0x50) ∧ ((0x50 : Byte) = 0x57 ∨ (0x50 : Byte) = 0x50) := by
  decide

/-- Selector 0x31 finds the disk of an armed block. -/
theorem drive_armed (sel : Byte) (sec : BitVec 16) : (armed sel sec).drive 0x31 0 Image.empty :=
  ⟨by decide, by decide, rfl, rfl⟩

theorem witness_WriteDataIsCommitted :
    (armed 0x31 720).dpWp = some ⟨0x31, 720⟩ ∧ (armed 0x31 720).drive 0x31 0 Image.empty ∧ Image.empty.lock = false ∧
    1 ≤ (720 : BitVec 16).toNat ∧ (720 : BitVec 16).toNat ≤ Image.empty.count ∧
    ((720 : BitVec 16).toNat ≤ 3 ∨ Image.empty.sectorSize = .s128) ∧ (List.replicate 128 (0xAA : Byte)).length = 128 :=
  ⟨rfl, drive_armed _ _, rfl, by decide, by decide, by decide, by decide +kernel⟩

theorem witness_RejectedWriteDataChangesNothing :
    ((armed 0x39 1).dpWp = some ⟨0x39, 1⟩ ∧ ((0x39 : Byte).toNat < 0x31 ∨ 0x38 < (0x39 : Byte).toNat)) ∧
    ((armed 0x38 1).dpWp = some ⟨0x38, 1⟩ ∧ 0x31 ≤ (0x38 : Byte).toNat ∧ (0x38 : Byte).toNat ≤ 0x38 ∧
      (armed 0x38 1).dpSlot.get ((0x38 : Byte).toNat - 0x31) = none) ∧
    (({ locked with dpWp := some ⟨0x31, 1⟩ } : State).drive 0x31 0 { Image.empty with lock := true }) ∧
    ((armed 0x31 721).drive 0x31 0 Image.empty ∧ Image.empty.lock = false ∧
      ((721 : BitVec 16) = 0 ∨ Image.empty.count < (721 : BitVec 16).toNat) ∧
      ((0 : BitVec 16) = 0 ∨ Image.empty.count < (0 : BitVec 16).toNat)) ∧
    (({ wide with dpWp := some ⟨0x31, 4⟩ } : State).drive 0x31 0 image256 ∧ image256.lock = false ∧
      4 ≤ (4 : BitVec 16).toNat ∧ (4 : BitVec 16).toNat ≤ image256.count ∧ image256.sectorSize = .s256) ∧
    1 ≤ (1 : BitVec 16).toNat ∧ (1 : BitVec 16).toNat ≤ Image.empty.count ∧
    ((1 : BitVec 16).toNat ≤ 3 ∨ Image.empty.sectorSize = .s128) ∧ (List.replicate 127 (0 : Byte)).length ≠ 128 ∧
    (List.replicate 129 (0 : Byte)).length ≠ 128 := by
  refine ⟨by decide, by decide, ⟨by decide, by decide, rfl, rfl⟩, ⟨drive_armed _ _, by decide⟩,
    ⟨⟨by decide, by decide, rfl, rfl⟩, by decide⟩, by decide +kernel⟩

theorem witness_OtherCodesGetError :
    (0x4E : Byte) ≠ 0x53 ∧ (0x4E : Byte) ≠ 0x52 ∧ (0x4E : Byte) ≠ 0x57 ∧ (0x4E : Byte) ≠ 0x50 := by decide

theorem witness_DeferredReplyFiresWhenDue :
    blank.dpDeferred = [] ∧ waiting.dpDeferred = ⟨500, [0x43]⟩ :: [] ∧ waiting.trOpen = true ∧
    (⟨500, [0x43]⟩ : Deferred).due ≤ 500 ∧ 499 < (⟨500, [0x43]⟩ : Deferred).due ∧
    ({ waiting with trOpen := false } : State).trOpen = false := by decide

theorem witness_WrittenSectorIsReadBack :
    (armed 0x31 720).dpWp = some ⟨0x31, 720⟩ ∧
    (∃ t, exec (.writeData (List.replicate 128 0xAA) 0) (armed 0x31 720) = .next t ∧
      t.outTx = (armed 0x31 720).outTx ++ [[0x41]]) ∧ (96 : Byte).toNat ≤ 96 := by
  refine ⟨rfl, ?_, by decide⟩
  have h : sends (.writeData (List.replicate 128 0xAA) 0) (armed 0x31 720) = some [[0x41]] := by decide +kernel
  revert h
  unfold sends after
  cases exec (.writeData (List.replicate 128 0xAA) 0) (armed 0x31 720) with
  | next t => exact fun h => ⟨t, rfl, Option.some.inj h⟩
  | fault f => exact fun h => nomatch h
  | refused r => exact fun h => nomatch h

theorem witness_SendCodeAndSendPayload :
    (List.replicate 255 (0 : Byte)).length ≤ 255 ∧ blank.params.variant = .A ∧ variantB.params.variant = .B := by
  decide +kernel

theorem witness_ReplyRowsAreSent :
    ([] : List Byte).length ≤ 255 ∧ blank.params.variant = .A ∧ variantB.params.variant = .B := by decide

theorem witness_WhereOperationsStop :
    (blank.params.variant = .A ∧ 255 < (List.replicate 256 (0 : Byte)).length ∧ variantB.params.variant = .B) ∧
    (blank.image 0 = some Image.empty ∧ (721 = 0 ∨ Image.empty.count < 721 ∨
        (List.replicate 128 (0 : Byte)).length ≠ if 721 ≤ 3 then 128 else Image.empty.sectorSize.toNat) ∧
      (4 = 0 ∨ Image.empty.count < 4 ∨
        (List.replicate 129 (0 : Byte)).length ≠ if 4 ≤ 3 then 128 else Image.empty.sectorSize.toNat)) ∧
    blank.image 1 = none ∧
    (0x31 ≤ (0x31 : Byte).toNat ∧ (0x31 : Byte).toNat ≤ 0x38 ∧ dead.dpSlot.get ((0x31 : Byte).toNat - 0x31) = some 0 ∧
      dead.image 0 = none ∧ ({ dead with dpWp := some ⟨0x31, 1⟩ } : State).dpWp = some ⟨0x31, 1⟩) ∧
    ((inFrame 2 1 [0x53]).trOpen = true ∧ (inFrame 2 1 [0x53]).fePhase = .accum ∧
      (inFrame 2 1 [0x53]).feRemaining = 1 ∧ (inFrame 2 1 [0x53]).feBuf.length < (inFrame 2 1 [0x53]).feN.toNat ∧
      ∀ last, (inFrame 2 1 [0x53]).feLastRx = some last → 1000000 ≤ last + (inFrame 2 1 [0x53]).params.tIdle) := by
  refine ⟨by decide +kernel, by decide +kernel, by decide, by decide, by decide, by decide, by decide, by decide,
    fun last h => ?_⟩
  cases h; decide

theorem witness_ResolveDriveReadsTheSlot :
    (0x31 ≤ (0x31 : Byte).toNat ∧ (0x31 : Byte).toNat ≤ 0x38 ∧ blank.dpSlot.get ((0x31 : Byte).toNat - 0x31) = some 0) ∧
    (0x31 ≤ (0x38 : Byte).toNat ∧ (0x38 : Byte).toNat ≤ 0x38 ∧ blank.dpSlot.get ((0x38 : Byte).toNat - 0x31) = none) ∧
    ((0x30 : Byte).toNat < 0x31 ∨ 0x38 < (0x30 : Byte).toNat) ∧ ((0x39 : Byte).toNat < 0x31 ∨ 0x38 < (0x39 : Byte).toNat) := by
  decide

theorem witness_SectorReadsACopy :
    blank.image 0 = some Image.empty ∧ 1 ≤ 1 ∧ 1 ≤ Image.empty.count ∧ 720 ≤ Image.empty.count ∧
    ((0 : Nat) = 0 ∨ Image.empty.count < 0) ∧ (721 = 0 ∨ Image.empty.count < 721) := by decide

theorem witness_SectorWriteReplacesOneSector :
    wide.image 0 = some image256 ∧ image256.lock = false ∧
    (1 ≤ 720 ∧ 720 ≤ image256.count ∧
      (List.replicate 256 (1 : Byte)).length = if 720 ≤ 3 then 128 else image256.sectorSize.toNat) ∧
    1 ≤ 3 ∧ 3 ≤ image256.count ∧
    (List.replicate 128 (1 : Byte)).length = if 3 ≤ 3 then 128 else image256.sectorSize.toNat := by decide +kernel

theorem witness_BadOrLockedSectorWriteChangesNothing :
    blank.image 0 = some Image.empty ∧ Image.empty.lock = false ∧ ((0 : Nat) = 0 ∨ Image.empty.count < 0) ∧
    (721 = 0 ∨ Image.empty.count < 721) ∧
    (1 ≤ 5 ∧ 5 ≤ Image.empty.count ∧
      (List.replicate 256 (1 : Byte)).length ≠ if 5 ≤ 3 then 128 else Image.empty.sectorSize.toNat) ∧
    ∃ img, locked.image 0 = some img ∧ img.lock = true :=
  ⟨rfl, rfl, by decide, by decide, by decide +kernel, _, rfl, rfl⟩

theorem witness_SizeIsTheSumOfSectorLengths :
    blank.image 0 = some Image.empty ∧ (loaded ⟨2, .s256, false, []⟩).image 0 = some ⟨2, .s256, false, []⟩ := by decide

theorem witness_LenAndMemRead :
    wide.image 0 = some image256 ∧ 1 ≤ 4 ∧ 4 ≤ image256.count ∧
    (224 + 32 ≤ if 4 ≤ 3 then 128 else image256.sectorSize.toNat) ∧ ((0 : Nat) = 0 ∨ image256.count < 0) ∧
    (721 = 0 ∨ image256.count < 721) := by decide

theorem witness_UnstatedAnswersAreFree :
    blank.image 0 = some Image.empty ∧ 1 ≤ 720 ∧ 720 ≤ Image.empty.count ∧
    (if 720 ≤ 3 then 128 else Image.empty.sectorSize.toNat) < 97 + 32 := by decide

/-- A two-byte field of a file. -/
def field (file : List Byte) (k : Nat) : Nat := (file.getD k 0).toNat + 256 * (file.getD (k + 1) 0).toNat

/-- S1, S3, S4, S6 and S8. -/
theorem witness_DecodeFailuresInOrder :
    (header 0 128 0).length ≤ 16 ∧
    (∀ file ∈ [0x02 :: 0x96 :: List.replicate 142 (0 : Byte)], 16 < file.length ∧ file.take 2 ≠ [0x96, 0x02]) ∧
    (∀ file ∈ [header 9 128 0 ++ List.replicate 128 7],
      16 < file.length ∧ file.take 2 = [0x96, 0x02] ∧ file.length - 16 < 16 * field file 2) ∧
    (∀ file ∈ [header 8 0 0 ++ List.replicate 128 7], 16 < file.length ∧ file.take 2 = [0x96, 0x02] ∧
      16 * field file 2 ≤ file.length - 16 ∧ field file 4 = 0) ∧
    ∀ file ∈ [header 8 0 2 ++ List.replicate 128 7], 16 < file.length ∧ file.take 2 = [0x96, 0x02] ∧
      16 * field file 2 ≤ file.length - 16 ∧ field file 4 ≠ 0 ∧ field file 4 ≠ 128 ∧ field file 4 ≠ 256 := by
  decide +kernel

/-- S2 and S9. -/
theorem witness_DecodedImageIsTheFileSliced :
    ∀ e ∈ [(header 0 128 0 ++ [7], SectorSize.s128), (header 40 0 1 ++ List.replicate 740 7, .s256)],
      16 < e.1.length ∧ e.1.take 2 = [0x96, 0x02] ∧ 16 * field e.1 2 ≤ e.1.length - 16 ∧
      field e.1 4 = e.2.toNat := by decide +kernel

/-- S15 and S16: 65 528 paragraphs. -/
theorem witness_EncodedFileLayout :
    wide.image 0 = some image256 ∧ image256.size ≤ 65535 * 16 ∧
    (loaded ⟨8191, .s128, false, []⟩).image 0 = some ⟨8191, .s128, false, []⟩ ∧
    (⟨8191, .s128, false, []⟩ : Image).size ≤ 65535 * 16 ∧ 1 ≤ 8191 ∧
    8191 ≤ (⟨8191, .s128, false, []⟩ : Image).count := by decide

/-- An image of one sector, S19, S17. -/
theorem witness_DecodeOfEncodeIsTheImage :
    ((⟨1, .s128, true, [(127, 9)]⟩ : Image).wf = true ∧ 1 ≤ (⟨1, .s128, true, [(127, 9)]⟩ : Image).count ∧
      (⟨1, .s128, true, [(127, 9)]⟩ : Image).size ≤ 65535 * 16) ∧
    ((⟨0, .s128, false, []⟩ : Image).wf = true ∧ (⟨0, .s128, false, []⟩ : Image).count = 0) ∧
    (⟨8192, .s128, false, []⟩ : Image).wf = true ∧ 65535 * 16 < (⟨8192, .s128, false, []⟩ : Image).size ∧
    (loaded ⟨8192, .s128, false, []⟩).image 0 = some ⟨8192, .s128, false, []⟩ := by decide

theorem witness_NewImageIsBlank : blank.inv = true := by decide +kernel
theorem witness_LoadImageStoresOrRejects : wide.inv = true := by decide +kernel

theorem witness_SetLockSetsOneLock : locked.image 0 = some { Image.empty with lock := true } := by decide

theorem witness_MountAndUnmount :
    (7 ≤ 7 ∧ (blank.image 0).isSome = true) ∧ (8 ≤ 8 ∨ blank.image 0 = none) ∧ (8 ≤ 7 ∨ blank.image 1 = none) := by
  decide

/-- Too few sectors, and a version byte that is not 2. -/
theorem witness_Dos2TestGuardsTheParser :
    (∃ img, (loaded ⟨368, .s128, false, [(45952, 2)]⟩).image 0 = some img ∧
      ¬ (369 ≤ img.count ∧ (img.sector 360)[0]? = some 2)) ∧
    ∃ img, blank.image 0 = some img ∧ ¬ (369 ≤ img.count ∧ (img.sector 360)[0]? = some 2) :=
  ⟨⟨_, rfl, by decide +kernel⟩, _, rfl, by decide +kernel⟩

theorem witness_VtocFieldsAreReportedAsStored :
    (∃ img, (bits 1024).image 0 = some img ∧ img.isDos2 = true ∧ 1024 ≤ img.count) ∧
    ∃ img, (bits 1023).image 0 = some img ∧ img.isDos2 = true ∧ img.count < 1024 :=
  ⟨⟨_, rfl, by decide +kernel, by decide⟩, _, rfl, by decide +kernel, by decide⟩

theorem witness_BitmapLookupsAgree :
    (∃ img, (bits 1024).image 0 = some img ∧ img.isDos2 = true ∧ 720 ≤ 720 ∧ 1023 ≤ 1023 ∧ 1024 ≤ img.count) ∧
    ∃ img, (bits 720).image 0 = some img ∧ img.isDos2 = true ∧ 719 ≤ 719 ∧ (1024 ≤ 720 ∨ (720 ≤ 720 ∧ img.count < 1024)) :=
  ⟨⟨_, rfl, by decide +kernel, by decide⟩, _, rfl, by decide +kernel, by decide⟩

theorem witness_DirectoryListsTheLiveEntries :
    (∃ img, (small [0, 7, 2] [0, 0, 1]).image 0 = some img ∧ img.isDos2 = true) ∧
    (∃ img, blank.image 0 = some img ∧ img.isDos2 = false) ∧ 63 ≤ 63 ∧ 63 < 64 :=
  ⟨⟨_, rfl, by decide +kernel⟩, ⟨_, rfl, by decide +kernel⟩, by decide, by decide⟩

/-- `A.TXT`, and an entry of eleven spaces. -/
theorem witness_EntryNameIsTrimmed :
    (aTxt.record.filename = [0x41] ++ List.replicate 7 0x20 ∧
      aTxt.record.extension = [0x54, 0x58, 0x54] ++ List.replicate 0 0x20 ∧
      ([0x41] : List Byte).getLast? ≠ some 0x20 ∧ ([0x54, 0x58, 0x54] : List Byte).getLast? ≠ some 0x20) ∧
    List.replicate 8 (0x20 : Byte) = [] ++ List.replicate 8 0x20 ∧ ([] : List Byte).getLast? ≠ some 0x20 := by decide

theorem witness_TailFieldsAreReportedAsStored :
    ∃ img, (small [0, 7, 2] [0, 0, 1]).image 0 = some img ∧ img.isDos2 = true ∧ 1 ≤ 369 ∧ 369 ≤ img.count ∧
      (0 = 0 ∨ img.count < 0) ∧ (370 = 0 ∨ img.count < 370) :=
  ⟨_, rfl, by decide +kernel, by decide⟩

/-- The sectors a walk from 4 has visited before it looks at 7, when 4 and 7 link to each other. -/
def loopVisited (pairs : Nat) : List Nat := (List.replicate pairs [4, 7]).flatten ++ [4]

/-- Two sectors that link to each other lead from 4 to 7 in any odd number of hops. -/
theorem leadsTo_loop {img : Image} (h4 : inChain img 0 4) (h7 : inChain img 0 7) (l4 : (img.tailAt 4).next = 7)
    (l7 : (img.tailAt 7).next = 4) (pairs : Nat) : leadsTo img 0 4 (loopVisited pairs) 7 := by
  have n4 : (img.tailAt 4).next.toNat = 7 := by rw [l4]; rfl
  have n7 : (img.tailAt 7).next.toNat = 4 := by rw [l7]; rfl
  induction pairs with
  | zero => exact ⟨rfl, h4, by rw [l4]; decide, n4.symm⟩
  | succ k ih =>
    refine ⟨rfl, h4, by rw [l4]; decide, n4.symm, h7, by rw [l7]; decide, ?_⟩
    rw [n7]; exact ih

/-- Hops that fail at the start: no sector 0, no sector past the last, a length byte over the capacity, another file
number. After the sound hop 4: a link past the disk, another file number and a length over the capacity in sector 7. After
369 sound hops round the loop 4, 7: one hop more than the disk has sectors. -/
theorem witness_FileContentsIsTheChain :
    (∃ img, (small [0, 7, 126] [0, 0, 1]).image 0 = some img ∧ img.isDos2 = true ∧ leadsTo img 0 0 [] 0 ∧
      leadsTo img 0 370 [] 370 ∧ img.count < 370 ∧ leadsTo img 0 4 [] 4 ∧ 1 ≤ 4 ∧ 4 ≤ img.count ∧
      (img.tailAt 4).fileNo.toNat ≠ 1 ∧ (img.tailAt 4).fileNo.toNat = 0 ∧
      img.len 4 - 3 < (img.tailAt 4).dataLen.toNat) ∧
    (∃ img, (small [3, 0, 2] [0, 0, 1]).image 0 = some img ∧ img.isDos2 = true ∧ leadsTo img 0 4 [4] 768 ∧
      [4].length ≤ img.count ∧ img.count < 768) ∧
    (∃ img, (small [0, 7, 2] [4, 0, 126]).image 0 = some img ∧ img.isDos2 = true ∧ leadsTo img 0 4 [4] 7 ∧
      [4].length < img.count ∧ 7 ≤ img.count ∧ (img.tailAt 7).fileNo.toNat ≠ 0) ∧
    (∃ img, (small [0, 7, 2] [0, 0, 126]).image 0 = some img ∧ img.isDos2 = true ∧ leadsTo img 0 4 [4] 7 ∧
      [4].length < img.count ∧ (img.tailAt 7).fileNo.toNat = 0 ∧ img.len 7 - 3 < (img.tailAt 7).dataLen.toNat) ∧
    ∃ img, (small [0, 7, 2] [0, 4, 1]).image 0 = some img ∧ img.isDos2 = true ∧
      leadsTo img 0 4 (loopVisited 184) 7 ∧ (loopVisited 184).length = img.count ∧ 7 ≤ img.count := by
  refine ⟨⟨_, rfl, by decide +kernel, rfl, rfl, by decide, rfl, by decide +kernel⟩,
    ⟨_, rfl, by decide +kernel, ⟨rfl, by unfold inChain; decide +kernel, by decide +kernel, by unfold leadsTo; decide +kernel⟩,
      by decide⟩,
    ⟨_, rfl, by decide +kernel, ⟨rfl, by unfold inChain; decide +kernel, by decide +kernel, by unfold leadsTo; decide +kernel⟩,
      by decide +kernel⟩,
    ⟨_, rfl, by decide +kernel, ⟨rfl, by unfold inChain; decide +kernel, by decide +kernel, by unfold leadsTo; decide +kernel⟩,
      by decide +kernel⟩,
    ⟨_, rfl, by decide +kernel, leadsTo_loop ?_ ?_ ?_ ?_ 184, by decide +kernel⟩⟩
  · unfold inChain; decide +kernel
  · unfold inChain; decide +kernel
  · decide +kernel
  · decide +kernel

theorem witness_LayoutsAreReadByTheirRules :
    (0 : BitVec 16) = 0 ∧ (512 : BitVec 16) ≠ 0 ∧ (512 : BitVec 16) ≠ 128 ∧ (512 : BitVec 16) ≠ 256 := by decide

theorem witness_ClosedTransportTakesNothing : State.reset.trOpen = false := rfl

end Sys2Proof.Tests
end

section
/-! The memory of the block: what `Len`, `MemRead`, `Sector` and the sector writes do in each case (20 R61 to R63, R71;
43 R211, R212, R222), and that an acknowledged write is read back (20 R76, R77). -/

namespace Sys2Proof.Image

variable (img : Image)

/-- The sector mux in the numbers of 20 R61. -/
theorem len_eq_mux (n : Nat) : img.len n = if n ≤ 3 then 128 else img.sectorSize.toNat := rfl

theorem has_eq_false_iff (n : Nat) : img.has n = false ↔ n = 0 ∨ img.count < n := by
  rw [← Bool.not_eq_true, has_iff]
  omega

end Sys2Proof.Image

namespace Sys2Proof.Machine

/-! Reads: one rule per case. -/

section Reads

variable {s : State} {d : DiskId} {img : Image} {n off len : Nat} (hi : s.image d = some img)
include hi

theorem exec_len_of_pos (hn : 1 ≤ n) : exec (.len d n) s = .next (s.answer (.number (img.len n))) :=
  (State.withImage_some hi _).trans (if_neg (by omega))

theorem exec_memRead_inside (hn : img.has n = true) (hl : off + len ≤ img.len n) :
    exec (.memRead d n off len) s =
      .next (s.answer (.maybeBytes (some (((img.sector n).drop off).take len)))) := by
  rw [← img.slice_eq hl]
  exact (State.withImage_some hi _).trans ((if_neg (by simp [hn])).trans (if_pos hl))

theorem exec_memRead_absent (hn : img.has n = false) :
    exec (.memRead d n off len) s = .next (s.answer (.maybeBytes none)) :=
  (State.withImage_some hi _).trans (if_pos hn)

/-- `MemRead` of a whole sector hands out the sector (20 R62). -/
theorem exec_memRead_whole (hn : img.has n = true) :
    exec (.memRead d n 0 (img.len n)) s = .next (s.answer (.maybeBytes (some (img.sector n)))) := by
  rw [exec_memRead_inside hi hn (Nat.zero_add _).le, List.drop_zero, List.take_of_length_le (by simp)]

theorem exec_sector_present (hn : img.has n = true) :
    exec (.sector d n) s = .next (s.answer (.maybeBytes (some (img.sector n)))) :=
  (State.withImage_some hi _).trans (if_pos hn)

theorem exec_sector_absent (hn : img.has n = false) :
    exec (.sector d n) s =
      .next ((s.logged (.invalidSectorNumber n)).answer (.maybeBytes none)) :=
  (State.withImage_some hi _).trans (if_neg (by simp [hn]))

end Reads

/-! Writes: on an image that has the sector, and with as many bytes as the sector has. -/

section Writes

variable {s : State} {d : DiskId} {img : Image} {n : Nat} {data : List Byte}

theorem State.storeSector_good (s : State) (d : DiskId) (hn : img.has n = true) (hd : data.length = img.len n) :
    s.storeSector d img n data = s.putSector d img n data :=
  (if_pos hn).trans (if_pos hd)

theorem exec_memWrite_good (hi : s.image d = some img) (hn : img.has n = true) (hd : data.length = img.len n) :
    exec (.memWrite d n data) s = .next (s.putSector d img n data).done :=
  (State.withImage_some hi _).trans (if_pos ⟨hn, hd⟩)

theorem exec_writeSector_good (hi : s.image d = some img) (hn : img.has n = true) (hd : data.length = img.len n) :
    exec (.writeSector d n data) s = .next (s.putSector d img n data).done := by
  rw [← s.storeSector_good d hn hd]
  exact State.withImage_some hi _

theorem exec_envWriteSector_good (hi : s.image d = some img) (hl : img.lock = false) (hn : img.has n = true)
    (hd : data.length = img.len n) :
    exec (.envWriteSector d n data) s = .next ((s.putSector d img n data).note (.diskChanged d n)).done := by
  rw [← s.storeSector_good d hn hd]
  exact (State.withImage_some hi _).trans ((if_neg (by simp [hl])).trans (if_pos ⟨hn, hd⟩))

/-- The written identity names the written image. -/
theorem State.image_putSector_same (hi : s.image d = some img) (n : Nat) (data : List Byte) :
    (s.putSector d img n data).image d = some (img.put n data) := by
  rw [State.image] at hi
  rw [State.image, State.putSector, State.setImage_disks, findDisk_replace, if_pos rfl, hi, Option.map_some]

/-- Every other identity names the image it named. -/
theorem State.image_putSector_other (s : State) {d e : DiskId} (h : e ≠ d) (img : Image) (n : Nat)
    (data : List Byte) : (s.putSector d img n data).image e = s.image e := by
  rw [State.image, State.putSector, State.setImage_disks, findDisk_replace, if_neg h, State.image]

end Writes

/-! A write transaction and the read after it. -/

/-- An acknowledged write has passed every check and is committed (42 R183, R184): a failed one sends `E`, not `A`. -/
theorem exec_writeData_acknowledged {s t : State} {wp : WritePending} {data : List Byte} {now : Time}
    (hw : s.dpWp = some wp) (h : exec (.writeData data now) s = .next t) (ha : t.outTx = s.outTx ++ [[0x41]]) :
    ∃ d img, resolveDrive s wp.sel = .ok d ∧ s.image d = some img ∧ writeCheck img wp.sec data = none ∧
      t = commitWrite d img wp.sec.toNat data now (s.setWp none) := by
  have hx : exec (.writeData data now) s = writeData wp data now s := by
    show execWriteData data now s = _
    rw [execWriteData, hw]
  rcases writeData_next (hx ▸ h) with ⟨r, rfl⟩ | hc
  · simp at ha
  · exact hc

/-- A committed write leaves the drives as they were (42 R184). -/
theorem resolveDrive_commitWrite (d : DiskId) (img : Image) (n : Nat) (data : List Byte) (now : Time) (s : State)
    (sel : Byte) : resolveDrive (commitWrite d img n data now s) sel = resolveDrive s sel := rfl

/-- The disk of a committed write holds the written image. -/
theorem image_commitWrite {s : State} {d : DiskId} {img : Image} (hi : s.image d = some img) (n : Nat)
    (data : List Byte) (now : Time) :
    (commitWrite d img n data now s).image d = some (img.put n data) :=
  State.image_putSector_same hi n data

/-- `R` of a good sector at an offset up to 96 sends the sector's 32 bytes from there (42 R176, R178). -/
theorem exec_cmdRChunk_good {s : State} {sel : Byte} {sec : BitVec 16} {off : Byte} {d : DiskId} {img : Image}
    (hd : resolveDrive s sel = .ok d) (hi : s.image d = some img) (hc : wireSectorCheck img sec = none)
    (ho : off.toNat ≤ 96) :
    exec (.cmdRChunk sel sec off) s =
      .next (s.sendPayload (((img.sector sec.toNat).drop off.toNat).take 32)).done := by
  obtain ⟨-, hl⟩ := wireSectorCheck_none.1 hc
  have hp : off ≠ probeOffset := by
    rintro rfl
    exact absurd ho (by decide)
  rw [← img.slice_eq (by omega)]
  refine (onDrive_ok hd hi _).trans ?_
  rw [hc]
  exact (if_neg hp).trans (if_pos ho)

/-! The statements about memory. -/

/-- Settles O40: each call falls in one case of its rule; for `Sector` the cases are whether the sector exists. -/
theorem lenAndMemRead : Obligations.LenAndMemRead := by
  intro s d img n off len hi
  simp only [← img.len_eq_mux, ← img.has_eq_false_iff]
  refine ⟨exec_len_of_pos hi, fun h₁ h₂ => exec_memRead_inside hi ((img.has_iff n).2 ⟨h₁, h₂⟩),
    exec_memRead_absent hi, ?_⟩
  cases hn : img.has n with
  | true =>
    refine ⟨some (img.sector n), exec_memRead_whole hi hn, ?_⟩
    rw [exec_sector_present hi hn, if_neg (Option.some_ne_none _), List.append_nil]
    rfl
  | false => exact ⟨none, exec_memRead_absent hi hn, exec_sector_absent hi hn⟩

/-- Settles O37: all three operations put the sector in the image, which replaces one image in `DISKS` and one block of
its memory. -/
theorem sectorWriteReplacesOneSector : Obligations.SectorWriteReplacesOneSector := by
  intro s d img n data hi h₁ h₂ hd
  rw [← img.len_eq_mux] at hd
  have hn : img.has n = true := (img.has_iff n).2 ⟨h₁, h₂⟩
  refine ⟨(s.putSector d img n data).done, img.put n data, rfl, exec_memWrite_good hi hn hd,
    exec_writeSector_good hi hn hd, fun hl => exec_envWriteSector_good hi hl hn hd,
    State.image_putSector_same hi n data, fun e he => s.image_putSector_other he img n data, rfl,
    img.sector_put_same n data hd, fun m hm _ hmn => img.sector_put_other data h₁ hm hmn hd, fun a ha => ?_⟩
  exact Memory.read_write_outside img.mem (img.base n) data a ha

/-- Settles O30: the acknowledged write is committed, so the drive still resolves to the disk, whose sector is now the
data. -/
theorem writtenSectorIsReadBack : Obligations.WrittenSectorIsReadBack := by
  intro s t wp data now off hw h ha ho
  obtain ⟨d, img, hd, hi, hc, rfl⟩ := exec_writeData_acknowledged hw h ha
  obtain ⟨-, hn, hl, hlen⟩ := writeCheck_none.1 hc
  have hread := exec_cmdRChunk_good
    ((resolveDrive_commitWrite d img wp.sec.toNat data now (s.setWp none) wp.sel).trans hd)
    (image_commitWrite (s := s.setWp none) hi wp.sec.toNat data now)
    (wireSectorCheck_none.2 ⟨hn, hl⟩ : wireSectorCheck (img.put wp.sec.toNat data) wp.sec = none) ho
  rw [img.sector_put_same _ _ (hlen.trans hl.symm)] at hread
  exact ⟨_, _, hread, rfl, by simp; omega, rfl⟩

end Sys2Proof.Machine
end

section
/-! What a received byte and the deferred-reply agent send: at most one burst, of a legal shape (30 R95; 42 R188, R190,
R192; decision D12). -/

namespace Sys2Proof.Machine

/-! The legal bursts. -/

@[simp] theorem replyFrame_length (v : Variant) (p : List Byte) : (replyFrame v p).length = p.length + 2 := by
  cases v <;> simp [replyFrame, frameBytes]

/-- A legal burst is not `N`: no code of it is, and a data reply is longer than a code (42 R188). -/
theorem legalBurst_ne_N {v : Variant} {bs : List Byte} (h : legalBurst v bs) : bs ≠ [0x4E] := by
  rcases h with rfl | rfl | rfl | ⟨p, -, rfl⟩
  · decide
  · decide
  · decide
  · intro hN
    have hlen := congrArg List.length hN
    rw [replyFrame_length, List.length_singleton] at hlen
    omega

/-- From `s` to `t` at most one burst has been sent, and that a legal one. -/
def SendsLegally (s t : State) : Prop :=
  t.outTx = s.outTx ∨ ∃ bs, t.outTx = s.outTx ++ [bs] ∧ legalBurst s.params.variant bs

namespace SendsLegally

variable {s t u : State}

/-- What had been sent, and the variant, are all that counts of the state before. -/
theorem of_before (h : SendsLegally u t) (htx : u.outTx = s.outTx) (hps : u.params = s.params) :
    SendsLegally s t := by
  rwa [SendsLegally, htx, hps] at h

theorem replyError (s : State) (r : Reason) : SendsLegally s (s.replyError r) :=
  .inr ⟨_, rfl, .inr (.inr (.inl rfl))⟩

/-- A decoded command sends `A`, `E` or a data reply, or it arms and sends nothing (42 section 7). -/
theorem of_runCommand {c : Command} (h : runCommand c s = .next t) : SendsLegally s t := by
  rcases runCommand_next h with ⟨r, rfl⟩ | rfl | ⟨p, hp, rfl⟩ | ⟨wp, rfl⟩
  · exact replyError s r
  · exact .inr ⟨_, rfl, .inl rfl⟩
  · exact .inr ⟨_, rfl, .inr (.inr (.inr ⟨p, hp, rfl⟩))⟩
  · exact .inl rfl

/-- Write data sends `A` or `E`; the `C` is only scheduled (42 R183, R184). -/
theorem of_writeData {wp : WritePending} {data : List Byte} {now : Time}
    (h : writeData wp data now s = .next t) : SendsLegally s t := by
  rcases writeData_next h with ⟨r, rfl⟩ | ⟨d, img, -, -, -, rfl⟩
  · exact (replyError (s.setWp none) r).of_before rfl rfl
  · exact .inr ⟨_, rfl, .inl rfl⟩

theorem of_dispatch {p : List Byte} {now : Time} (h : execDispatch p now s = .next t) : SendsLegally s t := by
  rcases execDispatch_next h with ⟨-, h⟩ | ⟨wp, -, h⟩
  · exact of_runCommand h
  · exact of_writeData h

end SendsLegally

/-- A received byte sends nothing but by the dispatcher, at a frame end (41 R140 to R146). -/
theorem execRxByte_sends {b : Byte} {now : Time} {s t : State} (h : execRxByte b now s = .next t) :
    t.outTx = s.outTx ∨ (s.fePhase = .accum ∧ SendsLegally s t) := by
  rcases execRxByte_next h with ⟨-, rfl⟩ | ⟨ph, n, m, buf, k, rfl | ⟨hp, -, payload, h | rfl⟩⟩
  · exact .inl rfl
  · exact .inl rfl
  · exact .inr ⟨hp, (SendsLegally.of_dispatch h).of_before rfl rfl⟩
  · exact .inl rfl

/-! The deferred-reply agent. -/

/-- What `FireDeferred` can do: nothing, or send the first entry, which is due (42 R190). -/
theorem execFireDeferred_next {now : Time} {s t : State} (h : execFireDeferred now s = .next t) :
    t = s.answer .notAdmitted ∨
      ∃ e rest, s.dpDeferred = e :: rest ∧ s.trOpen = true ∧ e.due ≤ now ∧
        t = ({ s with dpDeferred := rest }.tx e.bytes).done := by
  unfold execFireDeferred at h
  split at h
  · cases h; exact .inl rfl
  · rename_i e rest hq
    split at h
    · rename_i hdue
      cases h; exact .inr ⟨e, rest, hq, hdue.1, hdue.2, rfl⟩
    · cases h; exact .inl rfl

/-- Only a complete code is ever scheduled (10 R33). -/
theorem State.deferred_bytes_of_inv {s : State} (hinv : s.inv = true) {e : Deferred} (he : e ∈ s.dpDeferred) :
    e.bytes = [0x43] := by
  have hall : s.deferredComplete = true := (Bool.and_eq_true_iff.1 hinv).2
  exact eq_of_beq (List.all_eq_true.1 hall e he)

/-- Settles O18: a byte sends only what the dispatcher sends at a frame end, and only a `C` is ever scheduled. -/
theorem bytesAreAnsweredByLegalReplies : Obligations.BytesAreAnsweredByLegalReplies := by
  refine ⟨fun s t b now h => ?_, fun s t now hinv h => ?_⟩
  · rcases execRxByte_sends h with hnone | ⟨hp, hnone | ⟨bs, htx, hlegal⟩⟩
    · exact .inl hnone
    · exact .inl hnone
    · exact .inr ⟨hp, bs, htx, hlegal, legalBurst_ne_N hlegal⟩
  · rcases execFireDeferred_next h with rfl | ⟨e, rest, hq, -, -, rfl⟩
    · exact .inl rfl
    · have hC : e.bytes = [0x43] := State.deferred_bytes_of_inv hinv (hq ▸ List.mem_cons_self)
      exact .inr (by rw [← hC]; rfl)

end Sys2Proof.Machine
end

section
/-! The decoder: what it reads lies in its operand domain and takes the bytes its format gives it, and what is no item of
its format is refused by name (30 R90 to R116; log 25). -/

namespace Sys2Proof

/-! A test of the decoder that has not refused has been passed. -/

section Tests

variable {ε α : Type} {c : Prop} [Decidable c] {e : ε} {x : Except ε α} {a : α}

theorem ok_of_ite_error_left (h : (if c then .error e else x) = .ok a) : ¬c ∧ x = .ok a := by
  split at h
  · cases h
  · exact ⟨‹_›, h⟩

theorem ok_of_ite_error_right (h : (if c then x else .error e) = .ok a) : c ∧ x = .ok a := by
  split at h
  · exact ⟨‹_›, h⟩
  · cases h

end Tests

/-! What each shared piece of the decoder reads. -/

/-- A length byte and too few bytes after it (30 R90). -/
theorem decodeLengthPrefixed_short {bs : List Byte} (h : bs.length < (bs.headD 0).toNat + 2) :
    decodeLengthPrefixed bs = .error .tooFewBytes := by
  cases bs with
  | nil => rfl
  | cons n rest => exact if_pos (Nat.lt_of_succ_lt_succ h)

/-- What a length byte reads: at most 255 bytes, the checksum byte, and the bytes after both (30 R90). -/
theorem decodeLengthPrefixed_takes {bs p rest : List Byte} {cs : Byte}
    (h : decodeLengthPrefixed bs = .ok (p, cs, rest)) :
    p.length ≤ 255 ∧ (bs.headD 0).toNat + 2 ≤ bs.length ∧ rest = bs.drop ((bs.headD 0).toNat + 2) := by
  have hp : p.length ≤ 255 := (decodeLengthPrefixed_ok h).1
  cases bs with
  | nil => cases h
  | cons n more =>
    obtain ⟨hlen, h⟩ := ok_of_ite_error_left h
    cases h
    exact ⟨hp, Nat.succ_le_succ (Nat.not_lt.1 hlen), rfl⟩

theorem decodeFixed_short {size : Nat} {bs : List Byte} (h : bs.length < size) (k : (Nat → Byte) → Instr) :
    decodeFixed size bs k = .error .tooFewBytes := if_pos h

/-- A fixed layout takes its size in bytes. -/
theorem decodeFixed_ok {size : Nat} {bs rest : List Byte} {k : (Nat → Byte) → Instr} {i : Instr}
    (h : decodeFixed size bs k = .ok (i, rest)) :
    (∃ b, i = k b) ∧ size ≤ bs.length ∧ rest = bs.drop size := by
  obtain ⟨hlen, h⟩ := ok_of_ite_error_left h
  cases h
  exact ⟨⟨_, rfl⟩, Nat.not_lt.1 hlen, rfl⟩

theorem dirRecordAt_wellFormed (b : Nat → Byte) : (dirRecordAt b).wellFormed = true := by
  simp [dirRecordAt, DirRecord.wellFormed]

theorem vtocAt_wellFormed (b : Nat → Byte) : (vtocAt b).wellFormed = true := by
  simp [vtocAt, Vtoc.wellFormed]

theorem vtoc2At_wellFormed (b : Nat → Byte) : (vtoc2At b).wellFormed = true := by
  simp [vtoc2At, Vtoc2.wellFormed]

/-- Whatever the payload, the command it decodes to is in its domain (42 R171): each test of the code map is the domain
of the command it answers. -/
theorem decodeCommand_wellFormed (payload : List Byte) : (decodeCommand payload).toInstr.wellFormed = true := by
  cases payload with
  | nil => rfl
  | cons cmd args =>
    rw [decodeCommand]
    split
    next hcode => simp [Command.toInstr, Instr.wellFormed, hcode]
    next hcode =>
      split
      next hshort => simp [Command.toInstr, Instr.wellFormed, isEmptyOrShort, hcode, hshort]
      next =>
        dsimp only
        split
        next => rfl
        next =>
          split
          next =>
            split
            next => rfl
            next hoff => exact bne_iff_ne.2 hoff
          next => split <;> rfl

/-! Every format: what is decoded, and too few bytes. -/

namespace Machine

/-- `i` lies in its operand domain, and is the item at the head of `bs`, which `rest` follows. -/
def IsItem (f : Format) (bs : List Byte) (i : Instr) (rest : List Byte) : Prop :=
  i.wellFormed = true ∧ itemLength f bs ≤ bs.length ∧ rest = bs.drop (itemLength f bs)

section Items

variable {now : Time} {bs rest : List Byte} {i : Instr}

/-- A variant B reply takes all the bytes there are: the code, at most 255 of payload, the checksum (30 R94). -/
theorem isItem_of_decode_replyB (h : decode .replyB now bs = .ok (i, rest)) : IsItem .replyB bs i rest := by
  cases bs with
  | nil => cases h
  | cons c more =>
    rw [decode] at h
    obtain ⟨-, h⟩ := ok_of_ite_error_left h
    obtain ⟨-, h⟩ := ok_of_ite_error_left h
    obtain ⟨hmax, h⟩ := ok_of_ite_error_left h
    obtain ⟨-, h⟩ := ok_of_ite_error_right h
    cases h
    have hp : more.dropLast.length ≤ 255 := by rw [List.length_dropLast]; omega
    exact ⟨decide_eq_true hp, by simp [itemLength], by simp [itemLength]⟩

/-- A reply code takes one byte (30 R92). -/
theorem isItem_of_decode_code (h : decode .code now bs = .ok (i, rest)) : IsItem .code bs i rest := by
  cases bs with
  | nil => cases h
  | cons b more =>
    rw [decode] at h
    cases hc : replyCodeOf b with
    | none => rw [hc] at h; cases h
    | some c => cases c <;> rw [hc] at h <;> cases h <;> exact ⟨rfl, Nat.succ_pos _, rfl⟩

theorem isItem_of_decode_ok {f : Format} (h : decode f now bs = .ok (i, rest)) : IsItem f bs i rest := by
  cases f with
  | line =>
    cases bs with
    | nil => cases h
    | cons b more => cases h; exact ⟨rfl, Nat.succ_pos _, rfl⟩
  | frame =>
    rw [decode] at h
    split at h
    · cases h
    · obtain ⟨hp, htakes⟩ := decodeLengthPrefixed_takes ‹_›
      cases h; exact ⟨decide_eq_true hp, htakes⟩
  | dataFrame =>
    rw [decode] at h
    split at h
    · cases h
    · obtain ⟨-, htakes⟩ := decodeLengthPrefixed_takes ‹_›
      obtain ⟨hsize, h⟩ := ok_of_ite_error_right h
      cases h; exact ⟨beq_iff_eq.2 hsize, htakes⟩
  | replyA =>
    rw [decode] at h
    split at h
    · cases h
    · obtain ⟨hp, htakes⟩ := decodeLengthPrefixed_takes ‹_›
      obtain ⟨-, h⟩ := ok_of_ite_error_right h
      cases h; exact ⟨decide_eq_true hp, htakes⟩
  | replyB => exact isItem_of_decode_replyB h
  | code => exact isItem_of_decode_code h
  | command =>
    obtain ⟨-, h⟩ := ok_of_ite_error_left h
    cases h; exact ⟨decodeCommand_wellFormed bs, Nat.le_refl _, List.drop_length.symm⟩
  | data =>
    obtain ⟨hmax, h⟩ := ok_of_ite_error_left h
    cases h; exact ⟨decide_eq_true (Nat.not_lt.1 hmax), Nat.le_refl _, List.drop_length.symm⟩
  | header =>
    obtain ⟨hlen, h⟩ := ok_of_ite_error_left h
    obtain ⟨-, h⟩ := ok_of_ite_error_left h
    cases h; exact ⟨rfl, Nat.not_lt.1 hlen, rfl⟩
  | status =>
    obtain ⟨hlen, h⟩ := ok_of_ite_error_left h
    obtain ⟨-, h⟩ := ok_of_ite_error_left h
    cases h; exact ⟨rfl, Nat.not_lt.1 hlen, rfl⟩
  | dirEntry =>
    rw [decode] at h
    obtain ⟨⟨b, rfl⟩, htakes⟩ := decodeFixed_ok h
    exact ⟨dirRecordAt_wellFormed b, htakes⟩
  | vtoc =>
    rw [decode] at h
    obtain ⟨⟨b, rfl⟩, htakes⟩ := decodeFixed_ok h
    exact ⟨vtocAt_wellFormed b, htakes⟩
  | vtoc2 =>
    rw [decode] at h
    obtain ⟨⟨b, rfl⟩, htakes⟩ := decodeFixed_ok h
    exact ⟨vtoc2At_wellFormed b, htakes⟩
  | tail =>
    rw [decode] at h
    obtain ⟨⟨b, rfl⟩, htakes⟩ := decodeFixed_ok h
    exact ⟨rfl, htakes⟩

theorem decode_tooFewBytes {f : Format} (now : Time) (h : bs.length < itemLength f bs) :
    decode f now bs = .error .tooFewBytes := by
  have hnil (hlt : bs.length < 1) : bs = [] := List.eq_nil_of_length_eq_zero (Nat.lt_one_iff.1 hlt)
  cases f with
  | line => rw [hnil h]; rfl
  | frame => rw [decode, decodeLengthPrefixed_short h]
  | dataFrame => rw [decode, decodeLengthPrefixed_short h]
  | replyA => rw [decode, decodeLengthPrefixed_short h]
  | replyB => rw [hnil ((lt_max_iff.1 h).resolve_right (Nat.lt_irrefl _))]; rfl
  | code => rw [hnil h]; rfl
  | command => exact absurd h (Nat.lt_irrefl _)
  | data => exact absurd h (Nat.lt_irrefl _)
  | header => exact if_pos h
  | status => exact if_pos h
  | dirEntry => rw [decode]; exact decodeFixed_short h _
  | vtoc => rw [decode]; exact decodeFixed_short h _
  | vtoc2 => rw [decode]; exact decodeFixed_short h _
  | tail => rw [decode]; exact decodeFixed_short h _

end Items

/-! Every other refusal. -/

section Refusals

variable (now : Time)

theorem replyCodeOf_none {b : Byte} (hA : b ≠ 0x41) (hC : b ≠ 0x43) (hE : b ≠ 0x45) (hN : b ≠ 0x4E) :
    replyCodeOf b = none := by
  rw [replyCodeOf, if_neg hA, if_neg hC, if_neg hE, if_neg hN]

theorem decode_code_notAReplyCode {b : Byte} (h : replyCodeOf b = none) (more : List Byte) :
    decode .code now (b :: more) = .error .notAReplyCode := by
  rw [decode, h]

theorem decode_replyA_badChecksum {p : List Byte} {cs : Byte} (hp : p.length ≤ 255) (hcs : cs ≠ checksum p)
    (more : List Byte) : decode .replyA now (frameBytes p cs ++ more) = .error .badReplyChecksum := by
  rw [decode, decodeLengthPrefixed_frame hp]
  exact if_neg hcs

theorem decode_dataFrame_badLength {p : List Byte} (hp : p.length ≤ 255) (hsize : p.length ≠ 128) (cs : Byte)
    (more : List Byte) : decode .dataFrame now (frameBytes p cs ++ more) = .error .notADataFrame := by
  rw [decode, decodeLengthPrefixed_frame hp]
  exact if_neg hsize

theorem decode_replyB_noPrefix {c : Byte} (h : c ≠ 0x43) (more : List Byte) :
    decode .replyB now (c :: more) = .error .noCompletePrefix := if_pos h

theorem completeByte : (0x43 : Byte) = ReplyCode.C.byte := rfl

theorem decode_replyB_tooLong {bs : List Byte} (h : 256 < bs.length) :
    decode .replyB now (0x43 :: bs) = .error .payloadTooLong := by
  have hne : bs ≠ [] := List.ne_nil_of_length_pos (by omega)
  rw [decode, if_neg (not_not.2 completeByte), if_neg hne, if_pos h]

theorem decode_replyB_badChecksum {p : List Byte} {cs : Byte} (hp : p.length ≤ 255) (hcs : cs ≠ checksum p) :
    decode .replyB now (0x43 :: (p ++ [cs])) = .error .badReplyChecksum := by
  have hlen : ¬256 < (p ++ [cs]).length := by rw [List.length_append, List.length_singleton]; omega
  rw [decode, if_neg (not_not.2 completeByte), if_neg (by simp), if_neg hlen, List.getLastD_concat,
    List.dropLast_concat, if_neg hcs]

/-- The magic is tested byte by byte (30 R110). -/
theorem decode_header_badMagic {bs : List Byte} (hlen : 16 ≤ bs.length) (h : bs.take 2 ≠ [0x96, 0x02]) :
    decode .header now bs = .error .badMagic := by
  match bs, hlen with
  | b0 :: b1 :: more, hlen =>
    have hmagic : b0 ≠ 0x96 ∨ b1 ≠ 0x02 :=
      not_and_or.1 fun ⟨h0, h1⟩ => h (by rw [h0, h1]; rfl)
    exact (if_neg (Nat.not_lt.2 hlen)).trans (if_pos hmagic)

theorem decode_status_badTimeout (b0 b1 : Byte) {b2 : Byte} (h : b2 ≠ 5) (b3 : Byte) (more : List Byte) :
    decode .status now (b0 :: b1 :: b2 :: b3 :: more) = .error .badTimeoutByte := by
  rw [decode, if_neg (by simp only [List.length_cons]; omega)]
  exact if_pos h

end Refusals

/-- Settles O3: every decoded item is one of its format, and each refusal is a test of the decoder. -/
theorem decodedInstructionIsWellFormed : Obligations.DecodedInstructionIsWellFormed := by
  intro now
  refine ⟨fun f bs => ⟨fun i rest => isItem_of_decode_ok, decode_tooFewBytes now⟩,
    fun b more hA hC hE hN => decode_code_notAReplyCode now (replyCodeOf_none hA hC hE hN) more,
    fun p more cs hp => ?_, fun c more hc => decode_replyB_noPrefix now hc more, rfl,
    fun bs => ⟨fun h => ⟨if_pos h, if_pos h⟩, decode_replyB_tooLong now, decode_header_badMagic now⟩,
    fun b0 b1 b2 b3 more h => decode_status_badTimeout now b0 b1 h b3 more⟩
  have hframe : BitVec.ofNat 8 p.length :: (p ++ cs :: more) = frameBytes p cs ++ more := by simp [frameBytes]
  rw [hframe]
  exact ⟨fun hcs => ⟨decode_replyA_badChecksum now hp hcs more, decode_replyB_badChecksum now hp hcs⟩,
    fun hsize => decode_dataFrame_badLength now hp hsize cs more⟩

end Machine
end Sys2Proof
end

section
/-! The byte layouts as instructions: each is read by its rule and changes nothing but the answer (30 R100, R110 to R116;
43 R215, R217; 44 R249; log 11). -/

namespace Sys2Proof

/-- The live kind is bit 7 clear and bit 6 set (30 R112; 44 R249). -/
theorem kindOf_eq_live_iff (flags : Byte) :
    kindOf flags = .live ↔ flags.getLsbD 7 = false ∧ flags.getLsbD 6 = true := by
  simpa using congrArg (· = true) (kindOf_live flags)

/-- The two sector sizes are read from their own header fields (30 R110). -/
@[simp] theorem headerSectorSize_ofNat (size : SectorSize) :
    headerSectorSize (BitVec.ofNat 16 size.toNat) = .ok size := by
  cases size <;> rfl

/-- Any other field but zero names a sector size the block does not have (43 R217). -/
theorem headerSectorSize_unsupported {size : BitVec 16} (h0 : size ≠ 0) (h128 : size ≠ 128) (h256 : size ≠ 256) :
    headerSectorSize size = .error (.unsupportedSectorSize size.toNat) := by
  have hnone : sectorSizeOf size.toNat = none := by
    have h₁ : size.toNat ≠ 128 := fun h => h128 (BitVec.eq_of_toNat_eq h)
    have h₂ : size.toNat ≠ 256 := fun h => h256 (BitVec.eq_of_toNat_eq h)
    rw [sectorSizeOf, if_neg h₁, if_neg h₂]
  rw [headerSectorSize, if_neg h0, hnone]

namespace Machine

theorem exec_imageHeader (paragraphs size : BitVec 16) (s : State) :
    exec (.imageHeader paragraphs size) s =
      .next (s.finish (headerSectorSize size) (.header (16 * paragraphs.toNat))) := rfl

/-- Settles O59: a header answers what its size field makes of it, and the bits of a bitmap are those of the sectors it
calls free. -/
theorem layoutsAreReadByTheirRules : Obligations.LayoutsAreReadByTheirRules := by
  intro s
  refine ⟨fun paragraphs size => ?_, fun paragraphs size => ⟨?_, fun h0 h128 h256 => ?_⟩, fun _ _ _ => rfl,
    fun r => ⟨kindOf r.flags, rfl, kindOf_eq_live_iff _, kindOf_freeSlot _⟩,
    fun v => ⟨_, rfl, fun n => ?_⟩, fun v => ⟨_, rfl, fun n => ?_⟩, fun _ => rfl⟩
  · rw [exec_imageHeader, headerSectorSize_ofNat, State.finish_ok]
  · rintro rfl; rfl
  · rw [exec_imageHeader, headerSectorSize_unsupported h0 h128 h256, State.finish_error]; rfl
  · exact mem_bitmapFree.trans
      ⟨fun ⟨_, hn, hbit⟩ => ⟨by omega, hbit⟩, fun ⟨hn, hbit⟩ => ⟨Nat.zero_le n, by omega, hbit⟩⟩
  · exact mem_bitmapFree.trans
      ⟨fun ⟨hlo, hhi, hbit⟩ => ⟨hlo, by omega, hbit⟩, fun ⟨hlo, hhi, hbit⟩ => ⟨hlo, by omega, hbit⟩⟩

end Machine
end Sys2Proof
end

section
/-! The frame engine: what a received byte does in each case, and a frame received whole (41 R140 to R149; 42 R190). -/

namespace Sys2Proof.Machine

variable {s : State} {b : Byte} {now : Time}

/-- No more than `T_IDLE` has gone by since the previous byte, the bound included (41 R141; decision D3). -/
def State.WithinIdle (s : State) (now : Time) : Prop :=
  ∀ last, s.feLastRx = some last → now ≤ last + s.params.tIdle

/-! A received byte: one rule per case. -/

theorem execRxByte_closed (ho : s.trOpen = false) (b : Byte) (now : Time) :
    execRxByte b now s = .next (s.answer .notAdmitted) := if_neg (by simp [ho])

/-- A byte in time for its frame is accumulated (41 R143). -/
theorem execRxByte_accum (ho : s.trOpen = true) (hp : s.fePhase = .accum) (hi : s.WithinIdle now) (b : Byte) :
    execRxByte b now s = accumulate b now (s.received now) := by
  rw [execRxByte_open ho, admittedByte, State.idleChecked_of_le hi]
  simp only [State.received_fePhase, hp]

/-- A byte of a frame that is not its last (41 R143). -/
theorem execRxByte_middle (ho : s.trOpen = true) (hp : s.fePhase = .accum) (hr : s.feRemaining ≠ 1)
    (hi : s.WithinIdle now) (b : Byte) :
    execRxByte b now s = .next { s with
      feBuf := s.feBuf ++ [b], feRemaining := s.feRemaining - 1, feLastRx := some now, ret := .done } := by
  rw [execRxByte_accum ho hp hi]
  exact accumulate_middle (s := s.received now) hr b now

/-- The last byte of a frame (41 R143, R144). -/
theorem execRxByte_last (ho : s.trOpen = true) (hp : s.fePhase = .accum) (hr : s.feRemaining = 1)
    (hi : s.WithinIdle now) (b : Byte) :
    execRxByte b now s =
      frameEnd now { s with feBuf := s.feBuf ++ [b], feRemaining := 0, feLastRx := some now } := by
  rw [execRxByte_accum ho hp hi]
  exact accumulate_last (s := s.received now) hr b now

/-- After a gap of more than `T_IDLE` a byte is a length, from a frame reset (41 R141, R142). -/
theorem execRxByte_afterGap {last : Time} (ho : s.trOpen = true) (hl : s.feLastRx = some last)
    (hgap : last + s.params.tIdle < now) (b : Byte) :
    execRxByte b now s = .next ((s.feReset.received now).lengthByte b).done := by
  rw [execRxByte_open ho, admittedByte, State.idleChecked_of_lt hl hgap]
  rfl

/-! A length byte. -/

/-- The counter of a frame of `N` payload bytes is `N + 1`, in 9 bits (41 R142). -/
theorem setWidth_add_one_eq_ofNat (b : Byte) : (b.setWidth 9 + 1 : BitVec 9) = BitVec.ofNat 9 (b.toNat + 1) := by
  bv_omega

/-- A byte in awaiting-length is a length byte; before it the idle check may have emptied the buffer (41 R141, R142). -/
theorem execRxByte_awaitLen (ho : s.trOpen = true) (hp : s.fePhase = .awaitLen) (b : Byte) (now : Time) :
    ∃ buf, (buf = [] ∨ buf = s.feBuf) ∧
      execRxByte b now s = .next (({ s with feBuf := buf, feLastRx := some now } : State).lengthByte b).done := by
  rw [execRxByte_length ho hp]
  rcases s.idleChecked_eq now with e | e
  · exact ⟨s.feBuf, .inr rfl, by rw [e]; rfl⟩
  · exact ⟨[], .inl rfl, by rw [e, State.feReset, ← hp]; rfl⟩

/-- A length byte that starts a frame (41 R142). -/
theorem execRxByte_startsFrame (ho : s.trOpen = true) (hp : s.fePhase = .awaitLen)
    (hb : b ≠ 0xFF ∨ s.params.len255Degenerate = false) (now : Time) :
    execRxByte b now s = .next { s with
      fePhase := .accum, feN := b, feRemaining := BitVec.ofNat 9 (b.toNat + 1), feBuf := [],
      feLastRx := some now, ret := .done } := by
  obtain ⟨buf, -, hx⟩ := execRxByte_awaitLen ho hp b now
  rw [hx, State.lengthByte_eq (by exact hb), setWidth_add_one_eq_ofNat]
  rfl

/-- The length byte 0xFF of a block built with `LEN255_DEGENERATE` is dropped: the phase stays, and the buffer is
emptied or left (41 R142; log 16). -/
theorem execRxByte_degenerate (ho : s.trOpen = true) (hp : s.fePhase = .awaitLen)
    (hd : s.params.len255Degenerate = true) (now : Time) :
    ∃ n m buf, (buf = [] ∨ buf = s.feBuf) ∧ execRxByte 0xFF now s = .next { s with
      feN := n, feRemaining := m, feBuf := buf, feLastRx := some now, draws := s.draws + 1, ret := .done } := by
  obtain ⟨buf, hbuf, hx⟩ := execRxByte_awaitLen ho hp 0xFF now
  rw [hx, State.lengthByte, if_pos ⟨hd, rfl⟩]
  refine ⟨_, _, _, ?_, rfl⟩
  split
  · exact .inl rfl
  · exact hbuf

/-- A length byte does not depend on the counters of the frame before it (41 R142; log 16). -/
theorem State.lengthByte_counters (s : State) (n : Byte) (m : BitVec 9) (b : Byte) :
    ({ s with feN := n, feRemaining := m } : State).lengthByte b = s.lengthByte b := by
  unfold State.lengthByte
  split
  · rfl
  · rfl

/-! A frame received whole. -/

/-- The length byte of a payload is not the one that a degenerate block drops (41 R142; log 16). -/
theorem ofNat_length_ne_or {payload : List Byte} {degenerate : Bool} (hlen : payload.length ≤ 255)
    (h : payload.length ≠ 255 ∨ degenerate = false) :
    BitVec.ofNat 8 payload.length ≠ 0xFF ∨ degenerate = false := by
  refine h.imp_left fun hne heq => hne ?_
  have htoNat := congrArg BitVec.toNat heq
  rw [BitVec.toNat_ofNat, Nat.mod_eq_of_lt (by omega)] at htoNat
  exact htoNat

/-- The block once a whole frame has been received in awaiting-length and its checksum evaluated (41 R142 to R144). -/
def State.frameReceived (s : State) (payload : List Byte) (cs : Byte) (now : Time) : State :=
  { s with
    feN := BitVec.ofNat 8 payload.length, feRemaining := 0, feBuf := payload ++ [cs], feLastRx := some now,
    ckAcc := checksumAcc payload, ret := .done }

/-- The bytes of a frame, received from awaiting-length, fill the buffer and come to the frame's end (41 R142 to
R146). -/
theorem rxBytes_frame (ho : s.trOpen = true) (hp : s.fePhase = .awaitLen) {payload : List Byte}
    (hlen : payload.length ≤ 255) (hdeg : payload.length ≠ 255 ∨ s.params.len255Degenerate = false) (cs : Byte)
    (now : Time) :
    rxBytes now (frameBytes payload cs) s =
      let u := s.frameReceived payload cs now
      if checksum payload = cs then execDispatch payload now u else .next (u.logged .checksumMismatch).done := by
  have hn : (BitVec.ofNat 8 payload.length).toNat = payload.length := by
    rw [BitVec.toNat_ofNat, Nat.mod_eq_of_lt (by omega)]
  have hcount : payload.length < (BitVec.ofNat 9 (payload.length + 1)).toNat := by
    rw [BitVec.toNat_ofNat, Nat.mod_eq_of_lt (by omega)]
    omega
  have hone : BitVec.ofNat 9 (payload.length + 1) - BitVec.ofNat 9 payload.length = 1 := by bv_omega
  have hstart := execRxByte_startsFrame ho hp (ofNat_length_ne_or hlen hdeg) now
  rw [hn] at hstart
  calc rxBytes now (frameBytes payload cs) s
      = rxBytes now (payload ++ [cs]) _ := rxBytes_cons hstart _
    _ = rxBytes now [cs] _ := rxBytes_middle (by exact ho) rfl rfl rfl payload [cs] hcount
    _ = frameEnd now _ := rxBytes_last (by exact ho) rfl rfl hone cs
    _ = _ := frameEnd_eq rfl hn
    _ = _ := by rw [← hp]; rfl

/-! A closed transport. -/

/-- No byte is taken (41 R140; log 6, 12). -/
theorem rxBytes_closed (ho : s.trOpen = false) (now : Time) (b : Byte) (bs : List Byte) :
    rxBytes now (b :: bs) s = .next (s.answer .notAdmitted) := by
  induction bs generalizing s b with
  | nil => rw [rxBytes_cons (execRxByte_closed ho b now)]; rfl
  | cons c bs ih =>
    have hrest := ih (s := s.answer .notAdmitted) ho c
    rw [rxBytes_cons (execRxByte_closed ho b now), hrest]
    rfl

/-- No deferred reply is sent (42 R190; log 6). -/
theorem execFireDeferred_closed (ho : s.trOpen = false) (now : Time) :
    execFireDeferred now s = .next (s.answer .notAdmitted) := by
  unfold execFireDeferred
  split
  · rfl
  · exact if_neg (by simp [ho])

/-! The statements about received bytes. -/

/-- Settles O10: the byte is a length byte, whatever the idle check did before it. -/
theorem lengthByteStartsAFrame : Obligations.LengthByteStartsAFrame := by
  intro s b now ho hp
  refine ⟨fun hb => execRxByte_startsFrame ho hp hb now, ?_⟩
  rintro rfl hd
  exact execRxByte_degenerate ho hp hd now

/-- Settles O11: in time for its frame the byte is accumulated, and one more is to come. -/
theorem byteInFrameIsAppended : Obligations.ByteInFrameIsAppended :=
  fun _ b _ ho hp hr hi => execRxByte_middle ho hp hr hi b

/-- Settles O12: at the frame's end the buffer is the payload and, after it, the byte. -/
theorem lastByteEndsTheFrame : Obligations.LastByteEndsTheFrame := by
  intro s b now ho hp hr hlen hi
  have hend := (execRxByte_last ho hp hr hi b).trans (frameEnd_eq (payload := s.feBuf) (cs := b) rfl hlen.symm)
  exact ⟨checksumAcc s.feBuf, _, rfl, fun hb => hend.trans (if_pos hb.symm),
    fun hb => hend.trans (if_neg (Ne.symm hb))⟩

/-- Settles O13: after the gap the byte is a length byte from a frame reset, which overwrites the partial frame; within
it the idle check does nothing, and the time stamp is overwritten. -/
theorem idleGapForgetsThePartialFrame : Obligations.IdleGapForgetsThePartialFrame := by
  intro s b now last hl
  refine ⟨fun hgap ho ph n m buf => ?_, fun hle ho => ?_⟩
  · have hother := execRxByte_afterGap (s := { s with fePhase := ph, feN := n, feRemaining := m, feBuf := buf })
      ho hl hgap b
    refine (execRxByte_afterGap ho hl hgap b).trans (Eq.trans ?_ hother.symm)
    rw [← (s.feReset.received now).lengthByte_counters n m b]
    rfl
  · have hi : s.idleChecked now = s :=
      State.idleChecked_of_le fun last' h => by rw [hl] at h; cases h; exact hle
    refine (execRxByte_open ho b now).trans (Eq.trans ?_ (execRxByte_open (by exact ho) b now).symm)
    rw [admittedByte, hi]
    rfl

/-- Settles O15: the frame comes to its end with a full buffer, and the test there fails. -/
theorem badChecksumDropsTheFrame : Obligations.BadChecksumDropsTheFrame := by
  intro s payload cs now ho hp hlen hdeg hcs
  have hframe := (rxBytes_frame ho hp hlen hdeg cs now).trans (if_neg (Ne.symm hcs))
  exact ⟨checksumAcc payload, _, rfl, hframe, fun _ => hframe⟩

/-- Settles O60: a frame row is its bytes received, of which none is taken. -/
theorem closedTransportTakesNothing : Obligations.ClosedTransportTakesNothing := by
  intro s b payload now ho
  simp only [List.forall_mem_cons]
  exact ⟨execRxByte_closed ho b now, execFireDeferred_closed ho now, rxBytes_closed ho now _ _,
    rxBytes_closed ho now _ _, fun _ h => absurd h List.not_mem_nil⟩

end Sys2Proof.Machine
end

section
/-! What the outbound operations send (41 R150 to R155; 30 R92 to R94), and where the model stops, under which name. -/

namespace Sys2Proof.Machine

variable {s : State}

/-! The outbound operations. -/

/-- `SendPayload` in the block's own variant, up to 255 bytes (41 R151, R152). -/
theorem sendPayloadAs_selected {v : Variant} {p : List Byte} (hv : s.params.variant = v) (hp : p.length ≤ 255) :
    sendPayloadAs v p s = .next { s with
      outTx := s.outTx ++ [replyFrame v p], ckAcc := checksumAcc p, ret := .done } := by
  subst hv
  exact (if_neg (not_not.2 rfl)).trans (if_neg (Nat.not_lt.2 hp))

/-- Above 255 bytes `SendPayload` has no meaning (41 R153). -/
theorem sendPayloadAs_tooLong {v : Variant} {p : List Byte} (hv : s.params.variant = v) (hp : 255 < p.length) :
    sendPayloadAs v p s = .refused .payloadTooLong := (if_neg (not_not.2 hv)).trans (if_pos hp)

/-- The block has one variant (41 R155; log 13). -/
theorem sendPayloadAs_otherVariant {v : Variant} (hv : s.params.variant ≠ v) (p : List Byte) :
    sendPayloadAs v p s = .refused .variantNotSelected := if_pos hv

/-! Where an operation stops. -/

theorem exec_memWrite_refused {d : DiskId} {img : Image} {n : Nat} {data : List Byte} (hi : s.image d = some img)
    (h : ¬(img.has n = true ∧ data.length = img.len n)) :
    exec (.memWrite d n data) s = .refused .memWriteRequires :=
  (State.withImage_some hi _).trans (if_neg h)

/-- A command whose slot holds an identity outside `DISKS` (10 R36; log 14). -/
theorem onDrive_dead {sel : Byte} {d : DiskId} (hd : resolveDrive s sel = .ok d) (hi : s.image d = none)
    (k : DiskId → Image → Result) : onDrive s sel k = .fault (.noSuchDisk d) := by
  rw [onDrive, hd]
  exact State.withImage_none hi _

theorem exec_writeData_armed {wp : WritePending} (hw : s.dpWp = some wp) (data : List Byte) (now : Time) :
    exec (.writeData data now) s = writeData wp data now s := by
  show execWriteData data now s = _
  rw [execWriteData, hw]

/-- A frame end with too few bytes in the buffer (10 R24; log 15). -/
theorem frameEnd_short (h : s.feBuf.length ≤ s.feN.toNat) (now : Time) :
    frameEnd now s = .fault .frameBufferShort := by
  rw [frameEnd, List.getElem?_eq_none h]

/-! The statements about replies and stops. -/

/-- Settles O31: the framing of a data reply is that of the variant (30 R93, R94). -/
theorem sendCodeAndSendPayload : Obligations.SendCodeAndSendPayload := by
  refine fun s => ⟨fun c => ?_, fun p hp => ⟨checksumAcc p, fun hv => ?_, fun hv => ?_⟩⟩
  · cases c <;> rfl
  · exact sendPayloadAs_selected hv hp
  · exact sendPayloadAs_selected hv hp

/-- Settles O33: each stop is the first test that fails, and an operation on an image looks the identity up first. -/
theorem whereOperationsStop : Obligations.WhereOperationsStop := by
  intro s
  refine ⟨fun p => ⟨fun hv hp => ?_, fun hv hp => ?_, fun hv => ?_, fun hv => ?_⟩,
    fun d img n data hi h => exec_memWrite_refused hi ?_, fun d n k l data v hi => ?_,
    fun sel sec off d data now h₁ h₂ hd hi => ?_, fun b now ho hp hr hlen hi => ?_⟩
  · exact ⟨sendPayloadAs_tooLong hv hp, sendPayloadAs_tooLong hv hp⟩
  · exact ⟨sendPayloadAs_tooLong hv hp, sendPayloadAs_tooLong hv hp⟩
  · exact ⟨sendPayloadAs_otherVariant (by simp [hv]) p, sendPayloadAs_otherVariant (by simp [hv]) p⟩
  · exact ⟨sendPayloadAs_otherVariant (by simp [hv]) p, sendPayloadAs_otherVariant (by simp [hv]) p⟩
  · rw [img.has_iff, img.len_eq_mux]; omega
  · intro i hmem
    fin_cases hmem <;> exact State.withImage_none hi _
  · have hdead := onDrive_dead (resolveDrive_ok.2 ⟨h₁, h₂, hd⟩) hi
    refine ⟨hdead _, hdead _, hdead _, fun hw => ?_⟩
    rw [exec_writeData_armed hw]
    exact onDrive_dead (s := s.setWp none) (resolveDrive_ok.2 ⟨h₁, h₂, hd⟩) hi _
  · exact (execRxByte_last ho hp hr hi b).trans (frameEnd_short (by simpa using hlen) now)

end Sys2Proof.Machine
end

section
/-! The session: on live slots every byte and every good frame completes, and no operation but `Open` and `Close` writes
`TR.open` (41 R148; 60 R308). -/

namespace Sys2Proof.Machine

variable {s : State}

/-! With every mounted identity live, the dispatcher always completes (42 R170 to R173). -/

/-- A step completes. -/
def Completes (r : Result) : Prop := ∃ t, r = .next t

theorem completes_onDrive (hl : s.slotsLive = true) (sel : Byte) {k : DiskId → Image → Result}
    (hk : ∀ d img, Completes (k d img)) : Completes (onDrive s sel k) := by
  cases hr : resolveDrive s sel with
  | error r => exact ⟨s.replyError r, by rw [onDrive, hr]⟩
  | ok d =>
    obtain ⟨img, hi⟩ := State.image_of_resolve hl hr
    rw [onDrive_ok hr hi]
    exact hk d img

theorem completes_orReply (s : State) (check : Option Reason) {k : Result} (hk : Completes k) :
    Completes (orReply s check k) := by
  cases check with
  | none => exact hk
  | some r => exact ⟨_, rfl⟩

theorem completes_readCommand (hl : s.slotsLive = true) (sel : Byte) (sec : BitVec 16) (off : Byte) :
    Completes (readCommand sel sec off s) := by
  refine completes_onDrive hl sel fun d img => completes_orReply s _ ?_
  split
  · exact ⟨_, rfl⟩
  · split
    · exact ⟨_, rfl⟩
    · exact ⟨_, rfl⟩

theorem completes_runCommand (hl : s.slotsLive = true) (c : Command) : Completes (runCommand c s) := by
  cases c with
  | cmdS sel => exact completes_onDrive hl sel fun _ _ => ⟨_, rfl⟩
  | cmdRChunk sel sec off => exact completes_readCommand hl sel sec off
  | cmdRProbe sel sec => exact completes_readCommand hl sel sec probeOffset
  | cmdW sel sec => exact ⟨_, rfl⟩
  | cmdP sel sec => exact ⟨_, rfl⟩
  | other cmd => exact ⟨_, rfl⟩
  | emptyOrShort payload => exact ⟨_, rfl⟩

theorem completes_writeData (hl : s.slotsLive = true) (wp : WritePending) (data : List Byte) (now : Time) :
    Completes (writeData wp data now s) :=
  completes_onDrive (s := s.setWp none) hl wp.sel fun _ _ => completes_orReply _ _ ⟨_, rfl⟩

theorem completes_execDispatch (hl : s.slotsLive = true) (p : List Byte) (now : Time) :
    Completes (execDispatch p now s) := by
  unfold execDispatch
  split
  · rw [execWriteData, ‹s.dpWp = _›]
    exact completes_writeData hl _ p now
  · exact completes_runCommand hl _

/-- The end of a frame completes when the buffer is full (41 R144 to R146). -/
theorem completes_frameEnd (hl : s.slotsLive = true) {payload : List Byte} {cs : Byte}
    (hb : s.feBuf = payload ++ [cs]) (hn : s.feN.toNat = payload.length) (now : Time) :
    Completes (frameEnd now s) := by
  rw [frameEnd_eq hb hn]
  dsimp only
  split
  · exact completes_execDispatch (by exact hl) payload now
  · exact ⟨_, rfl⟩

/-- No byte stops the engine (41 R148): in every case of the byte there is a next state. -/
theorem completes_execRxByte (hinv : s.inv = true) (b : Byte) (now : Time) : Completes (execRxByte b now s) := by
  simp only [State.inv, Bool.and_eq_true] at hinv
  obtain ⟨⟨⟨⟨-, hl⟩, -⟩, hcount⟩, -⟩ := hinv
  cases ho : s.trOpen with
  | false => exact ⟨_, execRxByte_closed ho b now⟩
  | true =>
    cases hp : s.fePhase with
    | awaitLen => exact ⟨_, execRxByte_length ho hp⟩
    | accum =>
      by_cases hi : s.WithinIdle now
      · by_cases hr : s.feRemaining = 1
        · obtain ⟨hsum, -⟩ := s.frameCounted_iff.1 hcount hp
          have hone : (1 : BitVec 9).toNat = 1 := rfl
          have hfull : s.feN.toNat = s.feBuf.length := by rw [hr] at hsum; omega
          rw [execRxByte_last ho hp hr hi]
          exact completes_frameEnd (payload := s.feBuf) (by exact hl) rfl (by exact hfull) now
        · exact ⟨_, execRxByte_middle ho hp hr hi b⟩
      · simp only [State.WithinIdle, not_forall, Nat.not_le] at hi
        obtain ⟨last, hlast, hgap⟩ := hi
        exact ⟨_, execRxByte_afterGap ho hlast hgap b⟩

/-! The session: what every operation but `Open` and `Close` leaves of `TR.open`. -/

/-- Where the step completes, the transport is as open as it was in `s`. -/
def KeepsOpen (s : State) (r : Result) : Prop := ∀ t, r = .next t → t.trOpen = s.trOpen

theorem keepsOpen_next {t : State} (h : t.trOpen = s.trOpen) : KeepsOpen s (.next t) := by
  rintro _ ⟨⟩; exact h

theorem keepsOpen_ite {c : Prop} [Decidable c] {r r' : Result} (h : KeepsOpen s r) (h' : KeepsOpen s r') :
    KeepsOpen s (if c then r else r') := by
  split
  · exact h
  · exact h'

theorem keepsOpen_withImage (d : DiskId) {k : Image → Result} (hk : ∀ img, KeepsOpen s (k img)) :
    KeepsOpen s (s.withImage d k) := fun t h => by
  obtain ⟨img, -, h⟩ := State.withImage_next h
  exact hk img t h

theorem keepsOpen_finish {α : Type} (v : Except Reason α) (k : α → Answer) :
    KeepsOpen s (.next (s.finish v k)) := keepsOpen_next (by cases v <;> rfl)

theorem keepsOpen_lookup (d : DiskId) {α : Type} (v : Image → Except Reason α) (k : α → Answer) :
    KeepsOpen s (s.lookup d v k) := keepsOpen_withImage d fun img => keepsOpen_finish (v img) k

theorem keepsOpen_readSector (d : DiskId) (n : Nat) : KeepsOpen s (s.readSector d n) :=
  keepsOpen_withImage d fun _ => keepsOpen_ite (keepsOpen_next rfl) (keepsOpen_next rfl)

theorem State.storeSector_trOpen (s : State) (d : DiskId) (img : Image) (n : Nat) (data : List Byte) :
    (s.storeSector d img n data).trOpen = s.trOpen := by
  rcases s.storeSector_eq d img n data with ⟨-, -, e⟩ | ⟨r, e⟩ <;> rw [e] <;> rfl

theorem keepsOpen_envWriteSector (d : DiskId) (n : Nat) (data : List Byte) :
    KeepsOpen s (execEnvWriteSector d n data s) :=
  keepsOpen_withImage d fun img =>
    have hstore := s.storeSector_trOpen d img n data
    keepsOpen_ite (keepsOpen_next rfl) (keepsOpen_ite (keepsOpen_next hstore) (keepsOpen_next hstore))

theorem keepsOpen_memRead (d : DiskId) (n off len : Nat) : KeepsOpen s (execMemRead d n off len s) :=
  keepsOpen_withImage d fun _ =>
    keepsOpen_ite (keepsOpen_next rfl) (keepsOpen_ite (keepsOpen_next rfl) (keepsOpen_next rfl))

theorem keepsOpen_memWrite (d : DiskId) (n : Nat) (data : List Byte) :
    KeepsOpen s (execMemWrite d n data s) :=
  keepsOpen_withImage d fun _ => keepsOpen_ite (keepsOpen_next rfl) (by rintro t ⟨⟩)

theorem keepsOpen_len (d : DiskId) (n : Nat) : KeepsOpen s (execLen d n s) :=
  keepsOpen_withImage d fun _ => keepsOpen_ite (keepsOpen_next rfl) (keepsOpen_next rfl)

theorem keepsOpen_sendPayloadAs (v : Variant) (p : List Byte) : KeepsOpen s (sendPayloadAs v p s) := fun t h => by
  obtain ⟨-, -, rfl⟩ := sendPayloadAs_next h
  rfl

theorem keepsOpen_runCommand (c : Command) : KeepsOpen s (runCommand c s) := fun t h => by
  rcases runCommand_next h with ⟨r, rfl⟩ | rfl | ⟨p, -, rfl⟩ | ⟨wp, rfl⟩ <;> rfl

theorem keepsOpen_writeData (wp : WritePending) (data : List Byte) (now : Time) :
    KeepsOpen s (writeData wp data now s) := fun t h => by
  rcases writeData_next h with ⟨r, rfl⟩ | ⟨d, img, -, -, -, rfl⟩ <;> rfl

theorem keepsOpen_execWriteData (data : List Byte) (now : Time) : KeepsOpen s (execWriteData data now s) := by
  unfold execWriteData
  split
  · exact keepsOpen_writeData _ data now
  · exact keepsOpen_runCommand _

theorem keepsOpen_execDispatch (p : List Byte) (now : Time) : KeepsOpen s (execDispatch p now s) := by
  unfold execDispatch
  split
  · exact keepsOpen_execWriteData p now
  · exact keepsOpen_runCommand _

theorem keepsOpen_execRxByte (b : Byte) (now : Time) : KeepsOpen s (execRxByte b now s) := fun t h => by
  rcases execRxByte_next h with ⟨-, rfl⟩ | ⟨ph, n, m, buf, k, rfl | ⟨-, -, payload, h | rfl⟩⟩
  · rfl
  · rfl
  · have hkept := keepsOpen_execDispatch payload now t h
    exact hkept
  · rfl

theorem keepsOpen_rxBytes (now : Time) (bs : List Byte) : KeepsOpen s (rxBytes now bs s) := by
  induction bs generalizing s with
  | nil => exact keepsOpen_next rfl
  | cons b bs ih =>
    intro t h
    rw [rxBytes] at h
    split at h
    next u hu => exact (ih t h).trans (keepsOpen_execRxByte b now u hu)
    · cases h
    · cases h

theorem keepsOpen_fireDeferred (now : Time) : KeepsOpen s (execFireDeferred now s) := fun t h => by
  rcases execFireDeferred_next h with rfl | ⟨e, rest, -, -, -, rfl⟩ <;> rfl

theorem keepsOpen_loadImage (file : List Byte) : KeepsOpen s (execLoadImage file s) := by
  unfold execLoadImage
  split
  · exact keepsOpen_next rfl
  · exact keepsOpen_next rfl

theorem keepsOpen_destroyImage (d : DiskId) : KeepsOpen s (execDestroyImage d s) := by
  refine keepsOpen_next ?_
  split
  · rfl
  · rfl

theorem keepsOpen_mount (d : DiskId) (slot : Nat) : KeepsOpen s (execMount d slot s) :=
  keepsOpen_ite (keepsOpen_next rfl) (keepsOpen_next rfl)

/-- Only `Open` and `Close` write `TR.open` (10 R35). -/
theorem keepsOpen_exec {i : Instr} (hopen : i ≠ .openTransport) (hclose : i ≠ .closeTransport) (s : State) :
    KeepsOpen s (exec i s) := by
  cases i with
  | openTransport => exact absurd rfl hopen
  | closeTransport => exact absurd rfl hclose
  | frameIn payload cs now => exact keepsOpen_rxBytes now _
  | writeDataFrame data cs now => exact keepsOpen_rxBytes now _
  | rxByte b now => exact keepsOpen_execRxByte b now
  | dispatch p now => exact keepsOpen_execDispatch p now
  | writeData data now => exact keepsOpen_execWriteData data now
  | decodeCommand p now => exact keepsOpen_runCommand (decodeCommand p)
  | cmdS sel => exact keepsOpen_runCommand (.cmdS sel)
  | cmdRChunk sel sec off => exact keepsOpen_runCommand (.cmdRChunk sel sec off)
  | cmdRProbe sel sec => exact keepsOpen_runCommand (.cmdRProbe sel sec)
  | replyDataA p | replyDataB p | sendPayloadA p | sendPayloadB p => exact keepsOpen_sendPayloadAs _ p
  | fireDeferred now => exact keepsOpen_fireDeferred now
  | sector d n | envSector d n => exact keepsOpen_readSector d n
  | writeSector d n data =>
    exact keepsOpen_withImage d fun img => keepsOpen_next (s.storeSector_trOpen d img n data)
  | envWriteSector d n data => exact keepsOpen_envWriteSector d n data
  | memRead d n off len => exact keepsOpen_memRead d n off len
  | memWrite d n data => exact keepsOpen_memWrite d n data
  | len d n => exact keepsOpen_len d n
  | setLock d v => exact keepsOpen_withImage d fun img => keepsOpen_next rfl
  | loadImage file => exact keepsOpen_loadImage file
  | destroyImage d => exact keepsOpen_destroyImage d
  | mount d slot => exact keepsOpen_mount d slot
  | imageHeader | resolveDrive | decodeImage | encodeImage => exact keepsOpen_finish _ _
  | imageSize d | numSectors d | saveImage d | isDos2 d | vtocVersion d | vtocFreeCount d | hasVtoc2 d
  | vtoc2FreeCount d | sectorIsFree d | freeSectorList d | bitmapFreeCount d | dirEntry d | directory d | tail d
  | fileContents d => exact keepsOpen_lookup d _ _
  | cmdW | cmdP | other | emptyOrShort | codeA | codeC | codeE | codeN | sendCode | replyError | feReset
  | statusPayload | dirEntryStruct | vtocStruct | vtoc2Struct | chainTail | createEmpty | newImage | unmount
  | checksum | entryKind | entryName => exact keepsOpen_next rfl

/-! The statements about the session. -/

/-- Settles O14: the frame comes to its end with a full buffer, and on live slots the dispatcher completes. -/
theorem goodFrameIsDispatchedWhole : Obligations.GoodFrameIsDispatchedWhole := by
  intro s payload now ho hp hl hlen hdeg
  have hframe := (rxBytes_frame ho hp hlen hdeg (checksum payload) now).trans (if_pos rfl)
  obtain ⟨t, ht⟩ := completes_execDispatch (s := s.frameReceived payload (checksum payload) now) hl payload now
  exact ⟨checksumAcc payload, t, hframe.trans ht, ht, fun _ => hframe.trans ht⟩

/-- Settles O16: under the invariant a frame end finds its buffer full and its disks live; and besides `Close` only
`Open` writes `TR.open`. -/
theorem onlyCloseEndsTheSession : Obligations.OnlyCloseEndsTheSession := by
  refine ⟨fun s b now hinv => ?_, fun i s t h ho hclose => ?_⟩
  · obtain ⟨t, ht⟩ := completes_execRxByte hinv b now
    exact ⟨t, ht, keepsOpen_execRxByte b now t ht⟩
  · rcases eq_or_ne i .openTransport with rfl | hopen
    · cases h; rfl
    · exact (keepsOpen_exec hopen hclose s t h).trans ho

end Sys2Proof.Machine
end

section
/-! The commands of the dispatcher: what a drive, a sector and a write data frame are checked for, what each command
replies, and where it is turned away (42 R170 to R190; order of tests: 60 R305). -/

namespace Sys2Proof

/-- The codes of the write commands read a selector and a little-endian sector number (30 R97; 42 R171). -/
theorem decodeCommand_W (sel lo hi : Byte) (more : List Byte) :
    decodeCommand (0x57 :: sel :: lo :: hi :: more) = .cmdW sel (le16 lo hi) := by
  simp [decodeCommand, isCommandCode, commandNeed]

theorem decodeCommand_P (sel lo hi : Byte) (more : List Byte) :
    decodeCommand (0x50 :: sel :: lo :: hi :: more) = .cmdP sel (le16 lo hi) := by
  simp [decodeCommand, isCommandCode, commandNeed]

theorem decodeCommand_other {cmd : Byte} (h : isCommandCode cmd = false) (args : List Byte) :
    decodeCommand (cmd :: args) = .other cmd := if_pos h

theorem maskIf_decide (p : Prop) [Decidable p] (mask : Byte) : maskIf (decide p) mask = if p then mask else 0 := by
  simp [maskIf]

/-- Byte 0 of the status payload as the three masks whose conditions hold (30 R100). -/
theorem statusFlags_eq (ps : Params) (img : Image) :
    statusFlags ps img = (if 1024 ≤ img.count then ps.statusEdMask else 0) |||
      (if ps.statusActive = true then ps.statusActiveMask else 0) |||
      (if img.lock = true then ps.statusWpMask else 0) := by
  rw [statusFlags, maskIf_decide]
  rfl

theorem driveOf_eq_none {sel : Byte} (h : sel.toNat < 0x31 ∨ 0x38 < sel.toNat) : driveOf sel = none :=
  if_neg (by omega)

/-- A sector has the length of a wire sector in the boot area and on an image of 128-byte sectors (20 R61). -/
theorem Image.len_eq_wireSector_iff (img : Image) (n : Nat) :
    img.len n = 128 ↔ n ≤ 3 ∨ img.sectorSize = .s128 := by
  rw [img.len_eq_mux]
  cases img.sectorSize <;> simp [SectorSize.toNat]

namespace Machine

variable {s : State} {sel : Byte} {sec : BitVec 16} {off : Byte} {d : DiskId} {img : Image} {data : List Byte}
  {now : Time} {r : Reason}

/-! A command's drive (42 R172). -/

theorem resolveDrive_invalid (h : sel.toNat < 0x31 ∨ 0x38 < sel.toNat) :
    resolveDrive s sel = .error (.invalidDrive sel) := by
  rw [resolveDrive, driveOf_eq_none h]

theorem resolveDrive_empty (h₁ : 0x31 ≤ sel.toNat) (h₂ : sel.toNat ≤ 0x38)
    (hd : s.dpSlot.get (sel.toNat - 0x31) = none) :
    resolveDrive s sel = .error (.driveEmpty (sel.toNat - 0x31)) := by
  simp only [resolveDrive, driveOf_eq_some.2 ⟨h₁, h₂, rfl⟩, hd]

/-- A command's drive is a selector that resolves to a live disk. -/
theorem State.drive_iff : s.drive sel d img ↔ resolveDrive s sel = .ok d ∧ s.image d = some img := by
  rw [resolveDrive_ok, State.drive, and_assoc, and_assoc]

theorem onDrive_error (hr : resolveDrive s sel = .error r) (k : DiskId → Image → Result) :
    onDrive s sel k = .next (s.replyError r) := by
  rw [onDrive, hr]

theorem onDrive_drive (h : s.drive sel d img) (k : DiskId → Image → Result) : onDrive s sel k = k d img :=
  onDrive_ok (State.drive_iff.1 h).1 (State.drive_iff.1 h).2 k

/-! The sector a wire command names, and what write data is checked for (42 R176, R183). -/

theorem wireSectorCheck_good (h₁ : 1 ≤ sec.toNat) (h₂ : sec.toNat ≤ img.count)
    (hl : sec.toNat ≤ 3 ∨ img.sectorSize = .s128) : wireSectorCheck img sec = none :=
  wireSectorCheck_none.2 ⟨(img.has_iff _).2 ⟨h₁, h₂⟩, (img.len_eq_wireSector_iff _).2 hl⟩

theorem wireSectorCheck_absent (h : sec = 0 ∨ img.count < sec.toNat) :
    wireSectorCheck img sec = some (.invalidSector sec.toNat) := by
  have hn : img.has sec.toNat = false := (img.has_eq_false_iff _).2 (h.imp_left (congrArg BitVec.toNat))
  exact if_neg (by simp [hn])

theorem wireSectorCheck_long (h₁ : 4 ≤ sec.toNat) (h₂ : sec.toNat ≤ img.count) (hs : img.sectorSize = .s256) :
    wireSectorCheck img sec = some (.sectorNot128 sec.toNat) := by
  have hlen : ¬ img.len sec.toNat = 128 := by
    rw [img.len_eq_wireSector_iff]
    rintro (hboot | h128)
    · omega
    · simp [hs] at h128
  exact (if_pos ((img.has_iff _).2 ⟨by omega, h₂⟩)).trans (if_neg hlen)

theorem writeCheck_locked (hl : img.lock = true) : writeCheck img sec data = some .diskLocked := if_pos hl

theorem writeCheck_sector (hl : img.lock = false) (hc : wireSectorCheck img sec = some r) :
    writeCheck img sec data = some r := by
  simp [writeCheck, hl, hc]

theorem writeCheck_length (hl : img.lock = false) (hc : wireSectorCheck img sec = none) (hd : data.length ≠ 128) :
    writeCheck img sec data = some (.badWriteLength data.length) := by
  simp [writeCheck, hl, hc, Config.wireSector, hd]

/-! `S` and `R` (42 R174 to R179). -/

/-- On a drive, a read command is turned away at its sector's check, or goes on by its offset (42 R176). -/
theorem readCommand_drive (h : s.drive sel d img) (sec : BitVec 16) (off : Byte) :
    readCommand sel sec off s = orReply s (wireSectorCheck img sec)
      (if off = probeOffset then .next (s.sendCode .A).done
        else if off.toNat ≤ lastChunkOffset then
          .next (s.sendPayload (img.slice sec.toNat off.toNat Config.chunk)).done
        else .next (s.replyError (.invalidOffset off))) :=
  onDrive_drive h _

theorem readCommand_badSector (h : s.drive sel d img) (hc : wireSectorCheck img sec = some r) (off : Byte) :
    readCommand sel sec off s = .next (s.replyError r) := by
  rw [readCommand_drive h, hc, orReply]

theorem readCommand_probe (h : s.drive sel d img) (hc : wireSectorCheck img sec = none) :
    readCommand sel sec probeOffset s = .next (s.sendCode .A).done := by
  rw [readCommand_drive h, hc, orReply, if_pos rfl]

/-- An offset above 96 that is not the probe's (42 R179; decision D8). -/
theorem readCommand_badOffset (h : s.drive sel d img) (hc : wireSectorCheck img sec = none) (h₁ : 97 ≤ off.toNat)
    (h₂ : off.toNat ≤ 254) : readCommand sel sec off s = .next (s.replyError (.invalidOffset off)) := by
  have hp : off ≠ probeOffset := by
    rintro rfl
    exact absurd h₂ (by decide)
  have ho : ¬ off.toNat ≤ lastChunkOffset := by
    show ¬ off.toNat ≤ 96
    omega
  rw [readCommand_drive h, hc, orReply, if_neg hp, if_neg ho]

/-- A drive that does not resolve turns `S` and `R` away before anything else is looked at (42 R172, R173). -/
theorem statusAndRead_noDrive (hr : resolveDrive s sel = .error r) (sec : BitVec 16) (off : Byte) :
    exec (.cmdS sel) s = .next (s.replyError r) ∧ exec (.cmdRProbe sel sec) s = .next (s.replyError r) ∧
      exec (.cmdRChunk sel sec off) s = .next (s.replyError r) :=
  ⟨onDrive_error hr _, onDrive_error hr _, onDrive_error hr _⟩

/-! Write data (42 R183, R184). -/

/-- A drive that does not resolve turns write data away, disarmed (42 R183). -/
theorem exec_writeData_noDrive (hw : s.dpWp = some ⟨sel, sec⟩) (hr : resolveDrive s sel = .error r)
    (data : List Byte) (now : Time) : exec (.writeData data now) s = .next ((s.setWp none).replyError r) :=
  (exec_writeData_armed hw data now).trans (onDrive_error (s := s.setWp none) hr _)

/-- On a drive, write data is turned away at its check or committed, disarmed either way (42 R183). -/
theorem exec_writeData_drive {wp : WritePending} (hw : s.dpWp = some wp) (h : s.drive wp.sel d img)
    (data : List Byte) (now : Time) :
    exec (.writeData data now) s = orReply (s.setWp none) (writeCheck img wp.sec data)
      (.next (commitWrite d img wp.sec.toNat data now (s.setWp none))) :=
  (exec_writeData_armed hw data now).trans (onDrive_drive (s := s.setWp none) h _)

theorem exec_writeData_rejected (hw : s.dpWp = some ⟨sel, sec⟩) (h : s.drive sel d img)
    (hc : writeCheck img sec data = some r) (now : Time) :
    exec (.writeData data now) s = .next ((s.setWp none).replyError r) := by
  rw [exec_writeData_drive hw h, hc, orReply]

theorem exec_writeData_committed {wp : WritePending} (hw : s.dpWp = some wp) (h : s.drive wp.sel d img)
    (hc : writeCheck img wp.sec data = none) (now : Time) :
    exec (.writeData data now) s = .next (commitWrite d img wp.sec.toNat data now (s.setWp none)) := by
  rw [exec_writeData_drive hw h, hc, orReply]

/-! The dispatcher and the deferred-reply agent. -/

/-- A payload that is dispatched and one that is called write data are told apart by `DP.wp` alone (42 R170). -/
theorem execDispatch_eq_execWriteData (p : List Byte) (now : Time) (s : State) :
    execDispatch p now s = execWriteData p now s := by
  unfold execDispatch execWriteData
  cases s.dpWp <;> rfl

/-- Unannounced data is a command by its first byte (42 R185 item 4; log 22). -/
theorem execWriteData_unarmed (hw : s.dpWp = none) (p : List Byte) (now : Time) :
    execWriteData p now s = execDecodeCommand p now s := by
  rw [execWriteData, hw]

/-- A decoded command runs as its own row of the table (42 R171). -/
theorem exec_toInstr (c : Command) (s : State) : exec c.toInstr s = runCommand c s := by
  cases c <;> rfl

/-- With nothing scheduled the agent is not enabled (42 R190; log 6). -/
theorem execFireDeferred_nil (h : s.dpDeferred = []) (now : Time) :
    execFireDeferred now s = .next (s.answer .notAdmitted) := by
  rw [execFireDeferred, h]

/-- What the agent does with a first entry (42 R190; decision D14; log 6). -/
theorem execFireDeferred_cons {e : Deferred} {rest : List Deferred} (h : s.dpDeferred = e :: rest) (now : Time) :
    execFireDeferred now s =
      if s.trOpen ∧ e.due ≤ now then .next ({ s with dpDeferred := rest }.tx e.bytes).done
      else .next (s.answer .notAdmitted) := by
  rw [execFireDeferred, h]

/-! The statements about the commands. -/

/-- Settles O20: the dispatcher and write data do one thing, which completes on live slots; a decoded command is its
row. -/
theorem goodFrameIsDataWhenArmed : Obligations.GoodFrameIsDataWhenArmed := by
  intro s p now hl
  obtain ⟨t, ht⟩ := completes_execDispatch hl p now
  obtain ⟨u, hu⟩ := completes_runCommand hl (decodeCommand p)
  have hdata : execWriteData p now s = .next t := execDispatch_eq_execWriteData p now s ▸ ht
  refine ⟨t, u, ht, hdata, hu, (exec_toInstr _ s).trans hu, fun hw => ?_⟩
  rw [execWriteData_unarmed hw] at hdata
  exact Host.Outcome.next.inj (hdata.symm.trans hu)

/-- Settles O22: the sector passes its check, so the reply is the slice at the offset. -/
theorem readChunkReply : Obligations.ReadChunkReply := by
  intro s sel sec off d img h h₁ h₂ hs ho
  have hc := wireSectorCheck_good h₁ h₂ hs
  have hlen : img.len sec.toNat = 128 := (wireSectorCheck_none.1 hc).2
  obtain ⟨hd, hi⟩ := State.drive_iff.1 h
  refine ⟨_, checksumAcc (((img.sector sec.toNat).drop off.toNat).take 32), rfl, ?_,
    exec_cmdRChunk_good hd hi hc ho⟩
  rw [List.length_take, List.length_drop, img.sector_length, hlen]
  omega

/-- Settles O23: with every slot live, a probe is turned away by its drive or by its sector's check, or it gets its
`A`. -/
theorem probeReply : Obligations.ProbeReply := by
  refine fun s sel sec hl => ⟨fun ⟨d, img, h, h₁, h₂, hs⟩ => readCommand_probe h (wireSectorCheck_good h₁ h₂ hs),
    fun hno => ?_⟩
  cases hr : resolveDrive s sel with
  | error r => exact ⟨r, onDrive_error hr _⟩
  | ok d =>
    obtain ⟨img, hi⟩ := State.image_of_resolve hl hr
    have h : s.drive sel d img := State.drive_iff.2 ⟨hr, hi⟩
    cases hc : wireSectorCheck img sec with
    | some r => exact ⟨r, readCommand_badSector h hc probeOffset⟩
    | none =>
      obtain ⟨hn, hlen⟩ := wireSectorCheck_none.1 hc
      obtain ⟨h₁, h₂⟩ := (img.has_iff _).1 hn
      exact absurd ⟨d, img, h, h₁, h₂, (img.len_eq_wireSector_iff _).1 hlen⟩ hno

/-- Settles O24: the drive is tested first, then the sector, then the offset. -/
theorem statusAndReadErrors : Obligations.StatusAndReadErrors := by
  intro s sel sec off
  refine ⟨fun h => statusAndRead_noDrive (resolveDrive_invalid h) sec off,
    fun h₁ h₂ hd => statusAndRead_noDrive (resolveDrive_empty h₁ h₂ hd) sec off,
    fun d img h => ⟨fun hn => ?_, fun h₁ h₂ hs => ?_, fun h₁ h₂ hs => readCommand_badOffset h ?_⟩⟩
  · have hc := wireSectorCheck_absent hn
    exact ⟨readCommand_badSector h hc probeOffset, readCommand_badSector h hc off⟩
  · have hc := wireSectorCheck_long h₁ h₂ hs
    exact ⟨readCommand_badSector h hc probeOffset, readCommand_badSector h hc off⟩
  · exact wireSectorCheck_good h₁ h₂ hs

/-- Settles O26: the data passes its check and is committed, which puts one sector in one image. -/
theorem writeDataIsCommitted : Obligations.WriteDataIsCommitted := by
  intro s wp data now d img hw h hl h₁ h₂ hs hd
  obtain ⟨hn, hlen⟩ := wireSectorCheck_none.1 (wireSectorCheck_good h₁ h₂ hs)
  have hi := (State.drive_iff.1 h).2
  refine ⟨_, img.put wp.sec.toNat data,
    exec_writeData_committed hw h (writeCheck_none.2 ⟨hl, hn, hlen, hd⟩) now, rfl,
    image_commitWrite (s := s.setWp none) hi wp.sec.toNat data now,
    fun e he => (s.setWp none).image_putSector_other he img wp.sec.toNat data, rfl,
    img.sector_put_same _ data (hd.trans hlen.symm), fun a ha => ?_⟩
  exact Memory.read_write_outside img.mem (img.base wp.sec.toNat) data a (by rwa [hd])

/-- Settles O27: the drive is tested first, then the lock, the sector and the length of the data. -/
theorem rejectedWriteDataChangesNothing : Obligations.RejectedWriteDataChangesNothing := by
  intro s sel sec data now hw
  refine ⟨fun h => exec_writeData_noDrive hw (resolveDrive_invalid h) data now,
    fun h₁ h₂ hd => exec_writeData_noDrive hw (resolveDrive_empty h₁ h₂ hd) data now, fun d img h =>
    ⟨fun hl => ?_, fun hl => ⟨fun hn => ?_, fun h₁ h₂ hs => ?_, fun h₁ h₂ hs hd => ?_⟩⟩⟩
  · exact exec_writeData_rejected hw h (writeCheck_locked hl) now
  · exact exec_writeData_rejected hw h (writeCheck_sector hl (wireSectorCheck_absent hn)) now
  · exact exec_writeData_rejected hw h (writeCheck_sector hl (wireSectorCheck_long h₁ h₂ hs)) now
  · exact exec_writeData_rejected hw h (writeCheck_length hl (wireSectorCheck_good h₁ h₂ hs) hd) now

/-- Settles O21: the drive resolves, and the payload is the three masks around the parameters. -/
theorem statusReply : Obligations.StatusReply := by
  intro s sel d img h
  exact ⟨statusFlags s.params img, checksumAcc (statusPayload s.params img), statusFlags_eq s.params img,
    onDrive_drive h _⟩

/-- Settles O25: arming looks at nothing, and both codes decode to it. -/
theorem writeCommandArms : Obligations.WriteCommandArms := by
  refine ⟨fun s sel sec => ⟨rfl, rfl⟩, fun s cmd sel lo hi more now hcmd => ?_⟩
  show runCommand (decodeCommand (cmd :: sel :: lo :: hi :: more)) s = _
  rw [← le16_eq]
  rcases hcmd with rfl | rfl
  · rw [decodeCommand_W]; rfl
  · rw [decodeCommand_P]; rfl

/-- Settles O28: the code map misses the code, and its row is the reply. -/
theorem otherCodesGetError : Obligations.OtherCodesGetError := by
  intro s cmd args now hS hR hW hP
  refine ⟨_, rfl, rfl, ?_⟩
  show runCommand (decodeCommand (cmd :: args)) s = _
  rw [decodeCommand_other (isCommandCode_false.2 ⟨hS, hR, hW, hP⟩)]
  rfl

/-- Settles O29: the agent tests the transport and the first entry's time. -/
theorem deferredReplyFiresWhenDue : Obligations.DeferredReplyFiresWhenDue := by
  refine fun s now => ⟨fun hq => execFireDeferred_nil hq now, fun e rest hq => ⟨fun ho hdue => ?_, fun hno => ?_⟩⟩
  · exact (execFireDeferred_cons hq now).trans (if_pos ⟨ho, hdue⟩)
  · refine (execFireDeferred_cons hq now).trans (if_neg ?_)
    rintro ⟨ho, hdue⟩
    rcases hno with hclosed | hearly
    · simp [hclosed] at ho
    · exact absurd hdue (Nat.not_le.2 hearly)

/-- Settles O34: each case of the selector has its rule, and the call only answers. -/
theorem resolveDriveReadsTheSlot : Obligations.ResolveDriveReadsTheSlot := by
  intro s sel
  have hcall {v : Except Reason DiskId} (hv : resolveDrive s sel = v) :
      exec (.resolveDrive sel) s = .next (s.finish v .disk) := hv ▸ rfl
  exact ⟨fun d h₁ h₂ hd => hcall (resolveDrive_ok.2 ⟨h₁, h₂, hd⟩),
    fun h₁ h₂ hd => hcall (resolveDrive_empty h₁ h₂ hd), fun h => hcall (resolveDrive_invalid h)⟩

/-- Settles O35: each is one operation on the state. -/
theorem replyErrorAndFrameReset : Obligations.ReplyErrorAndFrameReset := fun _ _ => ⟨rfl, rfl⟩

end Machine
end Sys2Proof
end

section
/-! The disk image store: reading, refused writing and measuring the sectors, and the blank image (43 R211 to R213, R221,
R222; 45 R283; 20 R61, R74). -/

namespace Sys2Proof

namespace Image

variable (img : Image)

/-- A sector is the bytes of the memory from its base on (20 R73). -/
theorem sector_getElem? {n k : Nat} (h : k < img.len n) :
    (img.sector n)[k]? = some (Memory.read img.mem (img.base n + k)) := by
  simp [Image.sector, Image.slice, Image.byte, h]

/-- A sector begins where the lengths of the sectors before it end (20 R69, R73). -/
theorem base_succ_eq_sum (c : Nat) : img.base (c + 1) = ((List.range c).map fun k => img.len (k + 1)).sum := by
  induction c with
  | zero => rfl
  | succ c ih =>
    rw [img.base_succ (c + 1) (by omega), ih, List.range_succ, List.map_append, List.sum_append]
    simp

/-- `Size` is the sum of all sector lengths (43 R213). -/
theorem size_eq_sum : img.size = ((List.range img.count).map fun k => img.len (k + 1)).sum := by
  rw [img.size_eq_base, img.base_succ_eq_sum]

/-- Every sector of the blank image is 128 zero bytes (43 R221). -/
theorem sector_empty (n : Nat) : Image.empty.sector n = List.replicate 128 0 := by
  have hlen : Image.empty.len n = 128 := (Image.empty.len_eq_wireSector_iff n).2 (.inr rfl)
  refine List.eq_replicate_iff.2 ⟨by rw [sector_length, hlen], fun b hb => ?_⟩
  obtain ⟨k, -, rfl⟩ := List.mem_map.1 hb
  rfl

theorem isDos2_empty : Image.empty.isDos2 = false := by decide

/-- A disk that is not DOS 2 has an empty directory (44 R250). -/
theorem directory_of_not_dos2 {img : Image} (h : img.isDos2 = false) : img.directory = [] :=
  if_neg (by simp [h])

end Image

namespace Machine

section Access

variable {s : State} {d : DiskId} {img : Image} {n : Nat} {data : List Byte}

/-- `EnvSector` is `Sector` (43 R222). -/
theorem exec_envSector (d : DiskId) (n : Nat) (s : State) : exec (.envSector d n) s = exec (.sector d n) s := rfl

theorem State.storeSector_absent (s : State) (d : DiskId) (data : List Byte) (hn : img.has n = false) :
    s.storeSector d img n data = s.logged (.invalidSectorNumber n) :=
  if_neg (by simp [hn])

theorem State.storeSector_badLength (s : State) (d : DiskId) (hn : img.has n = true)
    (hd : data.length ≠ img.len n) :
    s.storeSector d img n data = s.logged (.badSectorLength n data.length) :=
  (if_pos hn).trans (if_neg hd)

theorem exec_writeSector (hi : s.image d = some img) (n : Nat) (data : List Byte) :
    exec (.writeSector d n data) s = .next (s.storeSector d img n data).done :=
  State.withImage_some hi _

/-- The lock is looked at first (43 R222; decision D9). -/
theorem exec_envWriteSector_locked (hi : s.image d = some img) (hl : img.lock = true) (n : Nat)
    (data : List Byte) : exec (.envWriteSector d n data) s = .next (s.raised .diskLocked) :=
  (State.withImage_some hi _).trans (if_pos hl)

/-- On an unlocked image a write that the store turns away is `WriteSector`'s, with no notification (43 R222). -/
theorem exec_envWriteSector_bad (hi : s.image d = some img) (hl : img.lock = false)
    (hbad : ¬ (img.has n = true ∧ data.length = img.len n)) :
    exec (.envWriteSector d n data) s = .next (s.storeSector d img n data).done :=
  (State.withImage_some hi _).trans ((if_neg (by simp [hl])).trans (if_neg hbad))

end Access

/-! Identities (10 R31). -/

/-- The next identity names no image yet (10 R31; log 10). -/
theorem State.image_nextDisk {s : State} (h : s.idsInOrder = true) : s.image s.nextDisk = none := by
  simp only [State.idsInOrder, Bool.and_eq_true, List.all_eq_true, decide_eq_true_eq] at h
  obtain ⟨-, hbelow⟩ := h
  cases hi : s.image s.nextDisk with
  | none => rfl
  | some img => exact absurd (hbelow _ (findDisk_mem hi)) (lt_irrefl _)

/-- Under the invariant the next identity is fresh: it names no image and is in no slot (10 R30, R31). -/
theorem State.nextDisk_fresh {s : State} (h : s.inv = true) :
    s.image s.nextDisk = none ∧ ∀ k, s.dpSlot.get k ≠ some s.nextDisk := by
  simp only [State.inv, Bool.and_eq_true] at h
  obtain ⟨⟨⟨⟨⟨-, hids⟩, hlive⟩, -⟩, -⟩, -⟩ := h
  have hnone := State.image_nextDisk hids
  refine ⟨hnone, fun k hk => ?_⟩
  have hsome := s.slotsLive_iff.1 hlive k _ hk
  simp [hnone] at hsome

/-! The statements about single sectors and the blank image. -/

/-- Settles O36: the two calls are one, with a case for a sector that exists and one for a sector that does not. -/
theorem sectorReadsACopy : Obligations.SectorReadsACopy := by
  intro s d img n hi
  rw [← img.has_eq_false_iff, exec_envSector]
  refine ⟨fun h₁ h₂ => ?_, fun hn => ⟨exec_sector_absent hi hn, exec_sector_absent hi hn⟩⟩
  have hread := exec_sector_present hi ((img.has_iff n).2 ⟨h₁, h₂⟩)
  refine ⟨img.sector n, hread, hread, img.sector_length n, fun k hk => img.sector_getElem? ?_⟩
  rwa [img.sector_length] at hk

/-- Settles O38: the lock is tested first, then the number, then the length. -/
theorem badOrLockedSectorWriteChangesNothing : Obligations.BadOrLockedSectorWriteChangesNothing := by
  intro s d img n data hi
  rw [← img.has_eq_false_iff, ← img.len_eq_mux]
  refine ⟨fun hn => ?_, fun h₁ h₂ hd => ?_, fun hl => exec_envWriteSector_locked hi hl n data⟩
  · have hstore := s.storeSector_absent d data hn
    refine ⟨(exec_writeSector hi n data).trans (by rw [hstore]; rfl), fun hl => ?_⟩
    rw [exec_envWriteSector_bad hi hl (by simp [hn]), hstore]
    rfl
  · have hstore := s.storeSector_badLength d ((img.has_iff n).2 ⟨h₁, h₂⟩) hd
    refine ⟨(exec_writeSector hi n data).trans (by rw [hstore]; rfl), fun hl => ?_⟩
    rw [exec_envWriteSector_bad hi hl (fun h => hd h.2), hstore]
    rfl

/-- Settles O39: the answers are the image's size, which is a sum of lengths, and its count. -/
theorem sizeIsTheSumOfSectorLengths : Obligations.SizeIsTheSumOfSectorLengths := by
  intro s d img hi
  simp only [← img.len_eq_mux, ← img.size_eq_sum]
  exact ⟨State.lookup_some hi _ _, State.lookup_some hi _ _⟩

/-- Settles O46: the image is `Image.empty`, all of whose bytes read zero, and the next identity is fresh. -/
theorem newImageIsBlank : Obligations.NewImageIsBlank := fun _ =>
  ⟨Image.empty, rfl, rfl, State.nextDisk_fresh, rfl, rfl, rfl, fun n _ _ => Image.sector_empty n,
    Image.isDos2_empty, Image.directory_of_not_dos2 Image.isDos2_empty⟩

end Machine
end Sys2Proof
end

section
/-! The persisted file: what `Decode` makes of any file, what `Encode` writes, and that the one undoes the other (43 R214 to
R220; 30 R110; 20 R69, R73). -/

namespace Sys2Proof

/-! 16-bit fields (20 R65). -/

theorem lo8_ofNat (x : Nat) : lo8 (BitVec.ofNat 16 x) = BitVec.ofNat 8 x := by
  apply BitVec.eq_of_toNat_eq
  simp only [lo8, BitVec.toNat_setWidth, BitVec.toNat_ofNat]
  omega

theorem hi8_ofNat (x : Nat) : hi8 (BitVec.ofNat 16 x) = BitVec.ofNat 8 (x / 256) := by
  apply BitVec.eq_of_toNat_eq
  simp only [hi8, BitVec.toNat_setWidth, BitVec.toNat_ushiftRight, BitVec.toNat_ofNat, Nat.shiftRight_eq_div_pow]
  omega

/-- Where a sector stands in the file: 16 bytes after where it stands in the image (20 R73). -/
theorem Image.fileOffset_eq (img : Image) (n : Nat) :
    Machine.fileOffset img.sectorSize.toNat n = 16 + img.base n := by
  have hbase : img.base n = if n ≤ 3 then 128 * (n - 1) else 384 + img.sectorSize.toNat * (n - 4) := rfl
  rw [Machine.fileOffset, hbase]
  split <;> omega

namespace Image

/-! `Decode`: one rule per case, in the order of 60 R305. -/

section Decode

variable {file : List Byte}

/-- Each of the first two bytes is tested for the magic (30 R110). -/
theorem badMagic_iff (hl : 16 < file.length) :
    file.take 2 ≠ [0x96, 0x02] ↔ file.getD 0 0 ≠ 0x96 ∨ file.getD 1 0 ≠ 0x02 := by
  match file, hl with
  | a :: b :: rest, _ => simp [imp_iff_not_or]

theorem decode_tooShort (h : file.length ≤ 16) : Image.decode file = .error (.corruptImage .tooShort) := if_pos h

theorem decode_badMagic (hl : 16 < file.length) (hm : file.take 2 ≠ [0x96, 0x02]) :
    Image.decode file = .error (.corruptImage .badMagic) :=
  (if_neg (Nat.not_le.2 hl)).trans (if_pos ((badMagic_iff hl).1 hm))

theorem decode_sizeExceedsData (hl : 16 < file.length) (hm : file.take 2 = [0x96, 0x02])
    (hs : file.length - 16 < 16 * ((file.getD 2 0).toNat + 256 * (file.getD 3 0).toNat)) :
    Image.decode file = .error (.corruptImage .sizeExceedsData) := by
  rw [← le16_toNat] at hs
  exact (if_neg (Nat.not_le.2 hl)).trans
    ((if_neg fun hbad => (badMagic_iff hl).2 hbad hm).trans (if_pos hs))

/-- After the other tests it is the sector size field that decides (43 R214, R215, R217). -/
theorem decode_of_header (hl : 16 < file.length) (hm : file.take 2 = [0x96, 0x02])
    (hs : 16 * ((file.getD 2 0).toNat + 256 * (file.getD 3 0).toNat) ≤ file.length - 16) :
    Image.decode file = (headerSectorSize (le16 (file.getD 4 0) (file.getD 5 0))).map
      fun size => Image.ofData size (file.drop 16) := by
  rw [← le16_toNat] at hs
  refine (if_neg (Nat.not_le.2 hl)).trans
    ((if_neg fun hbad => (badMagic_iff hl).2 hbad hm).trans ((if_neg (Nat.not_lt.2 hs)).trans ?_))
  cases headerSectorSize (le16 (file.getD 4 0) (file.getD 5 0)) <;> rfl

end Decode

/-- How many sectors fit (43 R214, R216 item 3). -/
theorem ofData_count (size : SectorSize) (data : List Byte) :
    (Image.ofData size data).count =
      if data.length < 384 then data.length / 128 else 3 + (data.length - 384) / size.toNat := by
  have hboot : bootCount data.length = min 3 (data.length / 128) := rfl
  show bootCount data.length + mainCount size data.length = _
  by_cases h : data.length < 384
  · have hne : ¬ bootCount data.length = Config.bootSectors := by
      show ¬ bootCount data.length = 3
      omega
    rw [mainCount, if_neg hne, if_pos h]
    omega
  · have heq : bootCount data.length = Config.bootSectors := by
      show bootCount data.length = 3
      omega
    rw [mainCount, if_pos heq, heq, if_neg h]
    rfl

variable (img : Image)

/-! `Encode`. -/

/-- The header `Encode` writes, both fields computed from the image (43 R218). -/
def header : List Byte :=
  headerBytes (BitVec.ofNat 16 (img.size / 16)) (BitVec.ofNat 16 img.sectorSize.toNat)

/-- The sectors `Encode` writes, laid end to end (43 R218). -/
def body : List Byte := (List.range img.count).flatMap fun k => img.sector (k + 1)

/-- The file of an image (43 R218). -/
def fileBytes : List Byte := img.header ++ img.body

variable {img} in
theorem encode_ok (h : img.size ≤ 65535 * 16) : img.encode = .ok img.fileBytes :=
  if_neg (by omega)

variable {img} in
theorem encode_tooLarge (h : 65535 * 16 < img.size) : img.encode = .error (.imageTooLarge (img.size / 16)) := by
  have := img.size_mod_16
  exact if_pos (by omega)

@[simp] theorem header_length : img.header.length = 16 := rfl

theorem header_eq : img.header =
    [0x96, 0x02, BitVec.ofNat 8 (img.size / 16), BitVec.ofNat 8 (img.size / 16 / 256),
      BitVec.ofNat 8 img.sectorSize.toNat, BitVec.ofNat 8 (img.sectorSize.toNat / 256),
      0, 0, 0, 0, 0, 0, 0, 0, 0, 0] := by
  rw [header, headerBytes, lo8_ofNat, hi8_ofNat, lo8_ofNat, hi8_ofNat]
  rfl

@[simp] theorem body_length : img.body.length = img.size := by
  rw [body, sectors_length, ← size_eq_base]

theorem fileBytes_length : img.fileBytes.length = 16 + img.size := by
  rw [fileBytes, List.length_append, header_length, body_length]

theorem fileBytes_take : img.fileBytes.take 16 = img.header := List.take_left' img.header_length

variable {img} in
theorem size_of_no_sector (h : img.count = 0) : img.size = 0 := by
  rw [size_eq_base, h, base_one]

/-- Sector `n` stands at its place in the file (20 R73). -/
theorem fileBytes_slice {n : Nat} (h₁ : 1 ≤ n) (h₂ : n ≤ img.count) :
    (img.fileBytes.drop (Machine.fileOffset img.sectorSize.toNat n)).take (img.len n) = img.sector n := by
  rw [img.fileOffset_eq, fileBytes, ← img.header_length, List.drop_length_add_append]
  exact img.sectors_slice h₁ h₂

/-! `Decode` of `Encode`. -/

/-- As many sectors are cut from `Size` bytes as the image has. -/
theorem count_ofData_body : (Image.ofData img.sectorSize img.body).count = img.count := by
  have hmain := img.size_pos_of_main
  have hsize : img.size = 128 * min img.count 3 + img.sectorSize.toNat * (img.count - 3) := rfl
  rw [ofData_count, body_length]
  rcases Nat.lt_or_ge img.count 3 with h | h
  · rw [Nat.sub_eq_zero_of_le h.le, Nat.mul_zero] at hsize
    rw [if_pos (by omega)]
    omega
  · rw [Nat.min_eq_right h] at hsize
    rw [if_neg (by omega), show img.size - 384 = img.sectorSize.toNat * (img.count - 3) by omega,
      Nat.mul_div_cancel_left _ (by omega)]
    omega

variable {img} in
theorem wf_iff : img.wf = true ↔ Memory.wf img.mem = true ∧ ∀ c ∈ img.mem, c.1 < img.size := by
  simp [Image.wf, Memory.below]

variable {img} in
/-- A canonical memory inside the sectors reads as the sectors laid end to end. -/
theorem read_eq_body (h : img.wf = true) (x : Nat) : Memory.read img.mem x = img.body.getD x 0 := by
  obtain ⟨-, hbelow⟩ := wf_iff.1 h
  rcases Nat.lt_or_ge x img.size with hx | hx
  · exact (img.sectors_getD (img.size_eq_base ▸ hx)).symm
  · rw [List.getD_eq_default _ _ (by simpa using hx)]
    exact Memory.read_eq_zero _ _ fun c hc => ((hbelow c hc).trans_le hx).ne

variable {img} in
/-- Cutting the sectors laid end to end gives the image back, unlocked: as many sectors, and a memory that reads
alike. -/
theorem ofData_body (h : img.wf = true) : Image.ofData img.sectorSize img.body = { img with lock := false } := by
  have hcount := img.count_ofData_body
  have hsize : (Image.ofData img.sectorSize img.body).size = img.size := by
    unfold Image.size
    rw [hcount]
    rfl
  have hmem : (Image.ofData img.sectorSize img.body).mem = img.mem := by
    rw [ofData_mem, hsize, List.take_of_length_le (by simp)]
    refine Memory.ext_of_wf (Memory.wf_cells 0 img.body) (wf_iff.1 h).1 fun x => ?_
    rw [Memory.read_cells, if_pos (Nat.zero_le x), Nat.sub_zero, read_eq_body h]
  calc Image.ofData img.sectorSize img.body
    _ = ⟨(Image.ofData img.sectorSize img.body).count, img.sectorSize, false,
          (Image.ofData img.sectorSize img.body).mem⟩ := rfl
    _ = { img with lock := false } := by rw [hcount, hmem]

variable {img} in
/-- What `Encode` writes of an image with a sector passes every test of `Decode` (43 R220; decision D19). -/
theorem decode_fileBytes (h : img.wf = true) (hc : 1 ≤ img.count) (hs : img.size ≤ 65535 * 16) :
    Image.decode img.fileBytes = .ok { img with lock := false } := by
  have hlen := img.fileBytes_length
  have hpos : 128 ≤ img.size := by
    have := img.base_add_len_le_size ((img.has_iff 1).2 ⟨le_rfl, hc⟩)
    have := img.len_pos 1
    omega
  have hfield : (lo8 (BitVec.ofNat 16 (img.size / 16))).toNat + 256 * (hi8 (BitVec.ofNat 16 (img.size / 16))).toNat =
      img.size / 16 := by
    rw [← le16_toNat, le16_lo8_hi8, BitVec.toNat_ofNat]
    omega
  have hdata : 16 * (img.size / 16) ≤ img.fileBytes.length - 16 := by omega
  have hheader := decode_of_header (file := img.fileBytes) (by omega) rfl
    ((Nat.mul_le_mul_left 16 hfield.le).trans hdata)
  calc Image.decode img.fileBytes
    _ = (headerSectorSize (le16 (lo8 (BitVec.ofNat 16 img.sectorSize.toNat))
          (hi8 (BitVec.ofNat 16 img.sectorSize.toNat)))).map fun size => Image.ofData size img.body := hheader
    _ = .ok (Image.ofData img.sectorSize img.body) := by rw [le16_lo8_hi8, headerSectorSize_ofNat]; rfl
    _ = .ok { img with lock := false } := by rw [ofData_body h]

end Image

namespace Machine

/-! The calls: each answers what the image's own function gives, and changes nothing else. -/

theorem exec_decodeImage (file : List Byte) (s : State) :
    exec (.decodeImage file) s = .next (s.finish (Image.decode file) .image) := rfl

theorem exec_encodeImage (img : Image) (s : State) :
    exec (.encodeImage img) s = .next (s.finish img.encode .bytes) := rfl

theorem exec_saveImage {s : State} {d : DiskId} {img : Image} (hi : s.image d = some img) :
    exec (.saveImage d) s = .next (s.finish img.encode .bytes) := State.lookup_some hi _ _

/-! The statements about the file. -/

/-- Settles O45: a written file passes every test of `Decode`, and its sectors cut apart are the image; the header alone is
too short. -/
theorem decodeOfEncodeIsTheImage : Obligations.DecodeOfEncodeIsTheImage := by
  intro s img h
  refine ⟨fun hc hs => ⟨img.fileBytes, ?_, ?_⟩, fun hc => ⟨img.fileBytes, ?_, ?_, ?_⟩,
    fun hs => ⟨?_, fun d hi => ?_⟩⟩
  · rw [exec_encodeImage, Image.encode_ok hs, State.finish_ok]
  · rw [exec_decodeImage, Image.decode_fileBytes h hc hs, State.finish_ok]
  · rw [img.fileBytes_length, Image.size_of_no_sector hc]
  · rw [exec_encodeImage, Image.encode_ok (by rw [Image.size_of_no_sector hc]; omega), State.finish_ok]
  · have hshort : img.fileBytes.length ≤ 16 := by rw [img.fileBytes_length, Image.size_of_no_sector hc]
    rw [exec_decodeImage, Image.decode_tooShort hshort, State.finish_error]
    rfl
  · rw [exec_encodeImage, Image.encode_tooLarge hs, State.finish_error]
    rfl
  · rw [exec_saveImage hi, Image.encode_tooLarge hs, State.finish_error]
    rfl

/-- Settles O42: each failure has its rule, and the call only answers. -/
theorem decodeFailuresInOrder : Obligations.DecodeFailuresInOrder := by
  intro s file fails field
  have hcall {v : Except Reason Image} (hv : Image.decode file = v) :
      exec (.decodeImage file) s = .next (s.finish v .image) := hv ▸ rfl
  refine ⟨fun hl => hcall (Image.decode_tooShort hl), fun hl => ⟨fun hm => hcall (Image.decode_badMagic hl hm),
    fun hm => ⟨fun hs => hcall (Image.decode_sizeExceedsData hl hm hs), fun hs => ?_⟩⟩⟩
  have hdecode := Image.decode_of_header hl hm hs
  rw [show field 4 = _ from (le16_toNat (file.getD 4 0) (file.getD 5 0)).symm]
  refine ⟨fun h0 => ?_, fun h0 h128 h256 => ?_⟩
  · rw [BitVec.eq_of_toNat_eq (y := 0) h0] at hdecode
    exact hcall hdecode
  · rw [headerSectorSize_unsupported (mt (congrArg BitVec.toNat) h0) (mt (congrArg BitVec.toNat) h128)
      (mt (congrArg BitVec.toNat) h256)] at hdecode
    exact hcall hdecode

/-- Settles O43: every test is passed, and a sector of the image cut from the data is a slice of the file. -/
theorem decodedImageIsTheFileSliced : Obligations.DecodedImageIsTheFileSliced := by
  intro s file size rest hl hm hs hsize
  refine ⟨Image.ofData size (file.drop 16), ?_, rfl, rfl, ?_, fun n h₁ h₂ => ?_⟩
  · rw [exec_decodeImage, Image.decode_of_header hl hm hs, le16_eq, hsize, headerSectorSize_ofNat]
    rfl
  · rw [Image.ofData_count, List.length_drop]
  · have hplace : fileOffset size.toNat n = 16 + (Image.ofData size (file.drop 16)).base n :=
      (Image.ofData size (file.drop 16)).fileOffset_eq n
    rw [Image.sector_ofData ((Image.has_iff _ n).2 ⟨h₁, h₂⟩), List.drop_drop, hplace]
    rfl

/-- Settles O44: both calls encode the image, and the file is its header and its sectors. -/
theorem encodedFileLayout : Obligations.EncodedFileLayout := by
  intro s d img hi hs
  refine ⟨img.fileBytes, ?_, ?_, img.fileBytes_length, ?_, fun n h₁ h₂ => img.fileBytes_slice h₁ h₂⟩
  · rw [exec_encodeImage, Image.encode_ok hs, State.finish_ok]
  · rw [exec_saveImage hi, Image.encode_ok hs, State.finish_ok]
  · rw [img.fileBytes_take, img.header_eq]

end Machine
end Sys2Proof
end

section
/-! The lookups of the DOS 2 parser: the guard, the stored fields, the bitmaps, the directory, and the chain of a file (44
R241 to R254; 30 R111 to R116). -/

namespace Sys2Proof

namespace Image

variable {img : Image}

/-- The filesystem test in the numbers of 44 R241. -/
theorem isDos2_eq (img : Image) :
    img.isDos2 = (decide (369 ≤ img.count) && (img.sector 360)[0]? == some 2) := by
  rw [img.sector_getElem? (Nat.lt_of_lt_of_le (by decide) (img.len_pos 360))]
  rfl

theorem isDos2_iff : img.isDos2 = true ↔ 369 ≤ img.count ∧ (img.sector 360)[0]? = some 2 := by
  simp [isDos2_eq]

/-- On a DOS 2 disk the version byte is 2 (44 R241). -/
theorem version_of_dos2 (hd : img.isDos2 = true) : img.byte 360 0 = 2 := by
  simp only [isDos2, Bool.and_eq_true, beq_iff_eq] at hd
  exact hd.2

/-- The offsets the lookups read lie in a sector of either length (44 R259; decision D31). -/
theorem byte_eq_getD (img : Image) (n : Nat) {k : Nat} (h : k < 128) : img.byte n k = (img.sector n).getD k 0 :=
  (img.sector_getD n k (Nat.lt_of_lt_of_le h (img.len_pos n))).symm

/-- A 16-bit field of a sector, low byte first (20 R65). -/
theorem le16_byte (img : Image) (n : Nat) {k : Nat} (h : k + 1 < 128) :
    le16 (img.byte n k) (img.byte n (k + 1)) =
      BitVec.ofNat 16 (((img.sector n).getD k 0).toNat + 256 * ((img.sector n).getD (k + 1) 0).toNat) := by
  rw [le16_eq, img.byte_eq_getD n h, img.byte_eq_getD n (Nat.lt_of_succ_lt h)]

/-! The bitmaps (44 R245, R246; 30 R114, R115). -/

theorem bitmapBit_bitmap1 (img : Image) {n : Nat} (h : n ≤ 719) :
    bitmapBit img.bitmap1 n = ((img.sector 360).getD (10 + n / 8) 0).getLsbD (7 - n % 8) := by
  rw [← img.byte_eq_getD 360 (by omega)]
  rfl

theorem bitmapBit_bitmap2 (img : Image) {n : Nat} (h : n ≤ 1023) :
    bitmapBit img.bitmap2 (n - 720) =
      ((img.sector 1024).getD (84 + (n - 720) / 8) 0).getLsbD (7 - (n - 720) % 8) := by
  rw [← img.byte_eq_getD 1024 (by omega)]
  rfl

theorem freenessOf_eq_free_iff {bit : Bool} : freenessOf bit = .free ↔ bit = true := by
  cases bit <;> decide

section Bitmaps

variable (hd : img.isDos2 = true) {n : Nat}
include hd

theorem sectorIsFree_low (hn : n ≤ 719) : img.sectorIsFree n = .ok (freenessOf (bitmapBit img.bitmap1 n)) := by
  rw [sectorIsFree, onDos2_of hd, if_pos hn]

theorem sectorIsFree_high (hlo : 720 ≤ n) (hhi : n ≤ 1023) (hc : 1024 ≤ img.count) :
    img.sectorIsFree n = .ok (freenessOf (bitmapBit img.bitmap2 (n - 720))) := by
  rw [sectorIsFree, onDos2_of hd, if_neg (by omega), if_pos (by simp [hhi, hasVtoc2_eq hd, hc])]

theorem sectorIsFree_notCovered (hn : 1024 ≤ n ∨ (720 ≤ n ∧ img.count < 1024)) :
    img.sectorIsFree n = .ok .notCovered := by
  rw [sectorIsFree, onDos2_of hd, if_neg (by omega), if_neg (by simp [hasVtoc2_eq hd]; omega)]

/-- The two bitmaps together call free what either does, the second when there is one. -/
theorem mem_free_iff : n ∈ img.free1 ++ img.free2 ↔
    n ≤ 719 ∧ bitmapBit img.bitmap1 n = true ∨
      720 ≤ n ∧ n ≤ 1023 ∧ 1024 ≤ img.count ∧ bitmapBit img.bitmap2 (n - 720) = true := by
  rw [List.mem_append, free1, free2, hasVtoc2_eq hd, mem_bitmapFree]
  refine or_congr ⟨fun ⟨_, hn, hbit⟩ => ⟨by omega, hbit⟩, fun ⟨hn, hbit⟩ => ⟨Nat.zero_le n, by omega, hbit⟩⟩ ?_
  by_cases hc : 1024 ≤ img.count
  · simp only [hc, decide_true, if_true, mem_bitmapFree, true_and]
    exact and_congr_right fun _ => and_congr_left fun _ => by omega
  · simp [hc]

end Bitmaps

/-- The first bitmap's sectors come before the second's, so the joined list is ascending (44 R246). -/
theorem free_sorted (img : Image) : (img.free1 ++ img.free2).Pairwise (· < ·) := by
  have hfirst : img.free1.Pairwise (· < ·) := bitmapFree_sorted ..
  rw [free2]
  split
  · refine List.pairwise_append.2 ⟨hfirst, bitmapFree_sorted .., fun a ha b hb => ?_⟩
    have ⟨_, ha', _⟩ := mem_bitmapFree.1 ha
    have ⟨hb', _⟩ := mem_bitmapFree.1 hb
    omega
  · rwa [List.append_nil]

/-! The tail of a sector (44 R253; 30 R116). -/

theorem sector_drop_tail (img : Image) (n : Nat) :
    (img.sector n).drop (img.len n - 3) =
      [img.byte n (img.len n - 3), img.byte n (img.len n - 2), img.byte n (img.len n - 1)] := by
  have hlen := img.len_pos n
  have hslice := img.slice_eq (n := n) (off := img.len n - 3) (k := 3) (by omega)
  rw [List.take_of_length_le (by simp; omega)] at hslice
  rw [← hslice, show img.len n - 2 = img.len n - 3 + 1 by omega, show img.len n - 1 = img.len n - 3 + 2 by omega]
  rfl

/-! The directory (44 R248, R250). -/

/-- On a DOS 2 disk the directory is the entries whose flag byte has bit 7 clear and bit 6 set (44 R249, R250). -/
theorem directory_of_dos2 (hd : img.isDos2 = true) :
    img.directory = ((List.range 64).map img.entryAt).filter fun e =>
      !e.record.flags.getLsbD 7 && e.record.flags.getLsbD 6 := by
  simp only [directory, hd, if_true, DirEntry.kind, kindOf_live]

end Image

/-- A directory entry is its 16 bytes and no other (30 R111). -/
theorem dirRecordAt_congr {b c : Nat → Byte} (h : ∀ o < 16, b o = c o) : dirRecordAt b = dirRecordAt c := by
  simp [dirRecordAt, List.range_succ, h]

/-- The entry at index `k` stands in its sector at its positional place (44 R248). -/
theorem Image.entryAt_record (img : Image) (k : Nat) :
    (img.entryAt k).record = dirRecordAt fun o => (img.sector (361 + k / 8)).getD (k % 8 * 16 + o) 0 :=
  dirRecordAt_congr fun _ ho => img.byte_eq_getD _ (by omega)

/-! The entry kind and the shown name (44 R249, R251). -/

theorem kindOf_eq (flags : Byte) :
    kindOf flags = if flags.getLsbD 7 = false ∧ flags.getLsbD 6 = true then .live
      else if flags = 0x00 ∨ flags = 0x80 then .freeSlot else .other := by
  simp [kindOf, flagDeleted, flagInUse]

theorem trimSpaces_replicate (k : Nat) : trimSpaces (List.replicate k 0x20) = [] := by
  induction k with
  | zero => rfl
  | succ k ih => rw [List.replicate_succ, trimSpaces, ih]; rfl

theorem trimSpaces_cons_of_ne_nil (b : Byte) {bs : List Byte} (h : trimSpaces bs ≠ []) :
    trimSpaces (b :: bs) = b :: trimSpaces bs := by
  rw [trimSpaces]
  split
  · contradiction
  · rfl

/-- What is trimmed is the trailing spaces and nothing before them (44 R251). -/
theorem trimSpaces_append_spaces {bs : List Byte} (h : bs.getLast? ≠ some 0x20) (k : Nat) :
    trimSpaces (bs ++ List.replicate k 0x20) = bs := by
  induction bs with
  | nil => exact trimSpaces_replicate k
  | cons b rest ih =>
    cases rest with
    | nil =>
      have hb : b ≠ 0x20 := fun e => h (by rw [e]; rfl)
      rw [List.cons_append, List.nil_append, trimSpaces, trimSpaces_replicate]
      exact if_neg hb
    | cons c cs =>
      have hrest := ih (by rwa [List.getLast?_cons_cons] at h)
      rw [List.cons_append, trimSpaces_cons_of_ne_nil b (by rw [hrest]; nofun), hrest]

namespace Machine

/-! The chain of a file (44 R254, R255). -/

section Walk

variable {img : Image} {fileNo fuel n : Nat} {out : List Byte}

theorem walk_absent (h : img.has n = false) : img.walk fileNo fuel n out = .error (.invalidSector n) := by
  cases fuel <;> simp [Image.walk, h]

theorem walk_chainLoop (h : img.has n = true) : img.walk fileNo 0 n out = .error (.chainLoop n) := if_pos h

theorem walk_mismatch (h : img.has n = true) (ht : (img.tailAt n).fileNo.toNat ≠ fileNo) :
    img.walk fileNo (fuel + 1) n out = .error (.fileNumberMismatch n (img.tailAt n).fileNo.toNat) :=
  (if_pos h).trans (if_pos ht)

theorem walk_badDataLength (h : img.has n = true) (ht : (img.tailAt n).fileNo.toNat = fileNo)
    (hl : img.len n - 3 < (img.tailAt n).dataLen.toNat) :
    img.walk fileNo (fuel + 1) n out = .error (.badDataLength n (img.tailAt n).dataLen.toNat) :=
  (if_pos h).trans ((if_neg (not_not.2 ht)).trans (if_pos hl))

/-- The last sound sector ends the walk with its bytes. -/
theorem walk_last (h : inChain img fileNo n) (hl : (img.tailAt n).next = 0) :
    img.walk fileNo (fuel + 1) n out = .ok (out ++ img.slice n 0 (img.tailAt n).dataLen.toNat) := by
  obtain ⟨h₁, h₂, ht, hd⟩ := h
  exact (if_pos ((img.has_iff n).2 ⟨h₁, h₂⟩)).trans
    ((if_neg (not_not.2 ht)).trans ((if_neg (Nat.not_lt.2 hd)).trans (if_pos hl)))

/-- A sector that may not stand in the chain ends the walk with no bytes, as does a hop too many. -/
theorem walk_unsound (h : fuel = 0 ∨ ¬ inChain img fileNo n) (bs : List Byte) :
    img.walk fileNo fuel n out ≠ .ok bs := by
  cases hn : img.has n with
  | false => rw [walk_absent hn]; nofun
  | true =>
    obtain _ | fuel := fuel
    · rw [walk_chainLoop hn]; nofun
    by_cases ht : (img.tailAt n).fileNo.toNat = fileNo
    · have hd : img.len n - 3 < (img.tailAt n).dataLen.toNat := by
        by_contra hd
        obtain ⟨h₁, h₂⟩ := (img.has_iff n).1 hn
        exact h.elim nofun fun h => h ⟨h₁, h₂, ht, Nat.not_lt.1 hd⟩
      rw [walk_badDataLength hn ht hd]; nofun
    · rw [walk_mismatch hn ht]; nofun

theorem isChain_cons_of_last (hl : (img.tailAt n).next = 0) (rest : List Nat) :
    isChain img fileNo (n :: rest) ↔ inChain img fileNo n ∧ rest = [] := by
  cases rest <;> simp [isChain, hl]

theorem isChain_cons_of_link (hl : (img.tailAt n).next ≠ 0) (rest : List Nat) :
    isChain img fileNo (n :: rest) ↔
      inChain img fileNo n ∧ rest.head? = some (img.tailAt n).next.toNat ∧ isChain img fileNo rest := by
  cases rest with
  | nil => exact ⟨fun ⟨_, h⟩ => absurd h hl, nofun⟩
  | cons m rest =>
    rw [isChain, List.head?_cons, Option.some_inj]
    exact and_congr_right fun _ => ⟨fun ⟨_, h, hc⟩ => ⟨h.symm, hc⟩, fun ⟨h, hc⟩ => ⟨hl, h.symm, hc⟩⟩

theorem inChain_of_isChain {rest : List Nat} (h : isChain img fileNo (n :: rest)) : inChain img fileNo n := by
  cases rest with
  | nil => exact h.1
  | cons => exact h.1

theorem chainBytes_cons (h : inChain img fileNo n) (rest : List Nat) :
    chainBytes img (n :: rest) = img.slice n 0 (img.tailAt n).dataLen.toNat ++ chainBytes img rest := by
  obtain ⟨-, -, -, hd⟩ := h
  rw [img.slice_eq (by omega), List.drop_zero]
  rfl

/-- The walk collects bytes exactly along a sound chain that its hops reach the end of (44 R254). -/
theorem walk_ok_iff {bs : List Byte} :
    img.walk fileNo fuel n out = .ok bs ↔ ∃ rest, (n :: rest).length ≤ fuel ∧ isChain img fileNo (n :: rest) ∧
      bs = out ++ chainBytes img (n :: rest) := by
  induction fuel generalizing n out with
  | zero => simp [walk_unsound]
  | succ fuel ih =>
    by_cases h : inChain img fileNo n
    · by_cases hl : (img.tailAt n).next = 0
      · simp [walk_last h hl, isChain_cons_of_last hl, h, chainBytes_cons h, show chainBytes img [] = [] from rfl, eq_comm]
      · rw [walk_hop h hl, ih]
        simp only [isChain_cons_of_link hl, h, true_and, chainBytes_cons h, List.length_cons, Nat.add_le_add_iff_right,
          List.append_assoc]
        constructor
        · rintro ⟨rest, hlen, hchain, rfl⟩
          exact ⟨_ :: rest, hlen, ⟨rfl, hchain⟩, rfl⟩
        · rintro ⟨rest, hlen, ⟨hhead, hchain⟩, rfl⟩
          obtain ⟨rest, rfl⟩ := List.head?_eq_some_iff.1 hhead
          exact ⟨rest, hlen, hchain, rfl⟩
    · exact iff_of_false (walk_unsound (.inr h) bs) fun ⟨_, _, hchain, _⟩ => h (inChain_of_isChain hchain)

end Walk

/-! What an operation that gives a value or raises answers. -/

/-- Nothing changes but the answer. -/
theorem State.finish_eq (s : State) {α : Type} (v : Except Reason α) (k : α → Answer) :
    s.finish v k = { s with ret := (s.finish v k).ret } := by
  cases v <;> rfl

/-- An error is never answered as bytes. -/
theorem State.finish_bytes_iff {s : State} {v : Except Reason (List Byte)} {bs : List Byte} :
    (s.finish v .bytes).ret = .bytes bs ↔ v = .ok bs := by
  cases v with
  | ok => simp
  | error r => cases r <;> simp [answerOf]

/-! The calls on a live disk. -/

section Calls

variable {s : State} {d : DiskId} {img : Image} (hi : s.image d = some img)
include hi

theorem State.lookup_ok {α : Type} {v : Image → Except Reason α} {a : α} (hv : v img = .ok a) (k : α → Answer) :
    s.lookup d v k = .next { s with ret := k a } := by
  rw [State.lookup_some hi, hv, State.finish_ok]

theorem State.lookup_error {α : Type} {v : Image → Except Reason α} {r : Reason} (hv : v img = .error r)
    (hr : answerOf r = .error r) (k : α → Answer) : s.lookup d v k = .next { s with ret := .error r } := by
  rw [State.lookup_some hi, hv, State.finish_error, hr]

theorem exec_isDos2 : exec (.isDos2 d) s = .next { s with ret := .truth img.isDos2 } :=
  State.lookup_some hi _ _

theorem exec_hasVtoc2 : exec (.hasVtoc2 d) s = .next { s with ret := .truth img.hasVtoc2 } :=
  State.lookup_some hi _ _

theorem exec_directory : exec (.directory d) s = .next { s with ret := .entries img.directory } :=
  State.lookup_some hi _ _

theorem exec_vtoc2FreeCount_none (h : img.hasVtoc2 = false) :
    exec (.vtoc2FreeCount d) s = .next { s with ret := .error .noVtoc2 } :=
  State.lookup_error hi (if_neg (by simp [h])) rfl _

theorem exec_fileContents (hd : img.isDos2 = true) (start fileNo : Nat) :
    exec (.fileContents d start fileNo) s = .next (s.finish (img.walk fileNo img.count start []) .bytes) := by
  rw [← img.onDos2_of hd (img.walk ..)]
  exact State.lookup_some hi _ _

end Calls

/-! The statements about the parser. -/

/-- Settles O58: the walk answers bytes exactly along a sound chain, and after sound hops it stands at the sector they
lead to, whose first failed test is its error. -/
theorem fileContentsIsTheChain : Obligations.FileContentsIsTheChain := by
  intro s d img start fileNo hi hd
  refine ⟨_, (exec_fileContents hi hd start fileNo).trans (congrArg _ (State.finish_eq ..)), fun bs => ?_,
    fun visited cur hleads hlen => ?_⟩
  · rw [State.finish_bytes_iff, walk_ok_iff]
    constructor
    · rintro ⟨rest, hlen, hchain, rfl⟩
      exact ⟨start :: rest, rfl, hlen, hchain, rfl⟩
    · rintro ⟨chain, hhead, hlen, hchain, rfl⟩
      obtain ⟨rest, rfl⟩ := List.head?_eq_some_iff.1 hhead
      exact ⟨rest, hlen, hchain, rfl⟩
  · obtain ⟨out, hwalk⟩ := walk_leadsTo [] hleads hlen
    rw [hwalk, ← img.has_eq_false_iff]
    refine ⟨fun hn => by rw [walk_absent hn]; rfl, fun h₁ h₂ => ?_⟩
    have hn := (img.has_iff cur).2 ⟨h₁, h₂⟩
    refine ⟨fun hlast => by rw [hlast, Nat.sub_self, walk_chainLoop hn]; rfl, fun hlt => ?_⟩
    obtain ⟨fuel, hfuel⟩ := Nat.exists_eq_add_of_lt hlt
    rw [show img.count - visited.length = fuel + 1 by omega]
    exact ⟨fun ht => by rw [walk_mismatch hn ht]; rfl, fun ht hl => by rw [walk_badDataLength hn ht hl]; rfl⟩

/-- Settles O54: the three ranges of sector numbers have each their rule, and the joined list of the bitmaps is sorted and
has the sectors whose bit is 1. -/
theorem bitmapLookupsAgree : Obligations.BitmapLookupsAgree := by
  intro s d img hi hd
  refine ⟨img.free1 ++ img.free2, State.lookup_ok hi (img.onDos2_of hd _) _, ?_, img.free_sorted, fun n => ?_⟩
  · rw [List.length_append]
    exact State.lookup_ok hi (img.onDos2_of hd _) _
  rw [Image.mem_free_iff hd]
  obtain hn | ⟨hlo, hhi, hc⟩ | hn : n ≤ 719 ∨ (720 ≤ n ∧ n ≤ 1023 ∧ 1024 ≤ img.count) ∨
      (1024 ≤ n ∨ (720 ≤ n ∧ img.count < 1024)) := by omega
  · refine ⟨_, State.lookup_ok hi (Image.sectorIsFree_low hd hn) _, ?_, fun _ => ?_, by omega, by omega⟩
    · rw [Image.freenessOf_eq_free_iff]
      exact ⟨fun h => (h.resolve_right (by omega)).2, fun h => .inl ⟨hn, h⟩⟩
    · rw [img.bitmapBit_bitmap1 hn]; rfl
  · refine ⟨_, State.lookup_ok hi (Image.sectorIsFree_high hd hlo hhi hc) _, ?_, by omega, fun _ _ _ => ?_, by omega⟩
    · rw [Image.freenessOf_eq_free_iff]
      refine ⟨fun h => ?_, fun h => .inr ⟨hlo, hhi, hc, h⟩⟩
      obtain ⟨-, -, -, hbit⟩ := h.resolve_left (by omega)
      exact hbit
    · rw [img.bitmapBit_bitmap2 hhi]; rfl
  · exact ⟨.notCovered, State.lookup_ok hi (Image.sectorIsFree_notCovered hd hn) _, by simp; omega, by omega,
      by omega, fun _ => rfl⟩

/-- Settles O55: the entries are the records at their places, and the kind is read from the flag byte alone. -/
theorem directoryListsTheLiveEntries : Obligations.DirectoryListsTheLiveEntries := by
  intro s d img hi
  refine ⟨img.entryAt, fun k => ?_, fun hd => ⟨fun k hk => ?_, fun k hk => ?_, ?_⟩, fun hd => ⟨fun k => ?_, ?_⟩,
    fun e => ⟨?_, rfl, rfl⟩⟩
  · rw [img.entryAt_record]
    exact ⟨rfl, rfl, le16_eq .., le16_eq .., rfl, rfl⟩
  · exact State.lookup_ok hi ((img.onDos2_of hd _).trans (if_neg (Nat.not_lt.2 hk))) _
  · exact State.lookup_error hi ((img.onDos2_of hd _).trans (if_pos hk)) rfl _
  · rw [exec_directory hi, img.directory_of_dos2 hd]
  · exact State.lookup_error hi (img.onDos2_not hd _) rfl _
  · rw [exec_directory hi, img.directory_of_not_dos2 hd]
  · rw [← kindOf_eq]; rfl

/-- Settles O56: both fields are trimmed of exactly their trailing spaces. -/
theorem entryNameIsTrimmed : Obligations.EntryNameIsTrimmed := by
  intro s e name ext j k hname hext hn he
  have hshown : e.name = if ext = [] then name else name ++ [0x2E] ++ ext := by
    rw [DirEntry.name, hname, hext, trimSpaces_append_spaces hn, trimSpaces_append_spaces he]
    split <;> simp
  rw [← hshown]
  rfl

/-- Settles O52: the test is that of the guard, and every lookup is behind it. -/
theorem dos2TestGuardsTheParser : Obligations.Dos2TestGuardsTheParser := by
  intro s d img hi
  rw [← img.isDos2_eq, ← Image.isDos2_iff]
  refine ⟨exec_isDos2 hi, fun hnot => ?_⟩
  have hd : img.isDos2 = false := by simpa using hnot
  have hv : img.hasVtoc2 = false := by rw [Image.hasVtoc2, hd]; rfl
  refine ⟨by rw [exec_directory hi, Image.directory_of_not_dos2 hd], by rw [exec_hasVtoc2 hi, hv],
    exec_vtoc2FreeCount_none hi hv, ?_, fun n m => ?_⟩
  all_goals
    simp only [List.forall_mem_cons, List.not_mem_nil]
    refine ⟨?_, ?_, ?_, ?_, nofun⟩ <;> exact State.lookup_error hi (Image.onDos2_not hd _) rfl _

/-- Settles O53: the fields are those of the sectors, and the second VTOC is there by the count. -/
theorem vtocFieldsAreReportedAsStored : Obligations.VtocFieldsAreReportedAsStored := by
  intro s d img hi hd field
  have hv := Image.hasVtoc2_eq hd
  refine ⟨?_, ?_, by rw [exec_hasVtoc2 hi, hv], fun hc => ?_, fun hc => ?_⟩
  · exact State.lookup_ok hi ((img.onDos2_of hd _).trans (congrArg _ (img.version_of_dos2 hd))) _
  · exact State.lookup_ok hi ((img.onDos2_of hd _).trans (congrArg _ (img.le16_byte 360 (by decide)))) _
  · exact State.lookup_ok hi ((if_pos (by simp [hv, hc])).trans (congrArg _ (img.le16_byte 1024 (by decide)))) _
  · exact exec_vtoc2FreeCount_none hi (by simp [hv, hc])

/-- Settles O57: the last three bytes of the sector are the tail. -/
theorem tailFieldsAreReportedAsStored : Obligations.TailFieldsAreReportedAsStored := by
  intro s d img n hi hd
  rw [← img.has_eq_false_iff, img.sector_length]
  refine ⟨fun h₁ h₂ => ?_, fun hn => ?_⟩
  · exact ⟨img.tailAt n,
      State.lookup_ok hi ((img.onDos2_of hd _).trans (if_pos ((img.has_iff n).2 ⟨h₁, h₂⟩))) _,
      _, _, _, img.sector_drop_tail n, tailOf_fileNo .., tailOf_next .., rfl⟩
  · exact State.lookup_error hi ((img.onDos2_of hd _).trans (if_neg (by simp [hn]))) rfl _

end Machine
end Sys2Proof
end

section
/-! The operations of the environment (45 R281 to R289): what each does to the transport, the slots and the images, and
that no other operation changes the mount table, the set of images, the shape of an image, or a constant (45 R290). -/

namespace Sys2Proof.Machine

variable {s : State} {d : DiskId} {img : Image}

/-! The slot table and the images: one rule per update. -/

theorem Slots.ext_get {t u : Slots} (h : ∀ k, t.get k = u.get k) : t = u := by
  cases t; cases u
  rw [Slots.mk.injEq]
  exact ⟨h 0, h 1, h 2, h 3, h 4, h 5, h 6, h 7⟩

/-- Taking out a disk that is in no slot changes nothing. -/
theorem Slots.clear_of_not_holds {t : Slots} (h : t.holds d = false) : t.clear d = t := by
  refine Slots.ext_get fun k => (t.get_clear d k).trans (if_neg fun hk => ?_)
  rw [(t.holds_iff d).2 ⟨k, hk⟩] at h
  cases h

theorem State.image_setImage_same (hi : s.image d = some img) (new : Image) :
    (s.setImage d new).image d = some new := by
  rw [State.image, State.setImage_disks, findDisk_replace, if_pos rfl, ← State.image, hi, Option.map_some]

theorem State.image_setImage_other (s : State) {e : DiskId} (h : e ≠ d) (new : Image) :
    (s.setImage d new).image e = s.image e := by
  rw [State.image, State.setImage_disks, findDisk_replace, if_neg h, State.image]

/-! The operations: one rule per case. -/

theorem exec_destroyImage (d : DiskId) (s : State) :
    exec (.destroyImage d) s = .next { s with
      disks := removeDisk s.disks d, dpSlot := s.dpSlot.clear d, ret := .done,
      outNote := s.outNote ++ (if s.dpSlot.holds d = true then [.mountChanged] else []) } := by
  show execDestroyImage d s = _
  unfold execDestroyImage
  cases hd : s.dpSlot.holds d with
  | true => rfl
  | false =>
    rw [Slots.clear_of_not_holds hd, if_neg Bool.false_ne_true, if_neg Bool.false_ne_true, List.append_nil]
    rfl

theorem exec_setLock (hi : s.image d = some img) (v : Bool) :
    exec (.setLock d v) s = .next (s.setImage d { img with lock := v }).done :=
  State.withImage_some hi _

theorem exec_mount {slot : Nat} (hslot : slot ≤ 7) (hi : (s.image d).isSome = true) :
    exec (.mount d slot) s = .next { s with
      dpSlot := (s.dpSlot.clear d).put slot (some d), outNote := s.outNote ++ [.mountChanged], ret := .done } :=
  if_pos ⟨hslot, hi⟩

theorem exec_mount_refused {slot : Nat} (h : 8 ≤ slot ∨ s.image d = none) :
    exec (.mount d slot) s = .next { s with ret := .refused (.mountRefused d slot) } := by
  refine if_neg fun ⟨hslot, hi⟩ => ?_
  rcases h with h | h
  · omega
  · simp [h] at hi

theorem exec_unmount (d : DiskId) (s : State) :
    exec (.unmount d) s = .next { s with
      dpSlot := s.dpSlot.clear d, outNote := s.outNote ++ [.mountChanged], ret := .done } := rfl

theorem exec_loadImage_ok {file : List Byte} (h : Image.decode file = .ok img) (s : State) :
    exec (.loadImage file) s = .next { s with
      disks := s.disks ++ [(s.nextDisk, img)], nextDisk := s.nextDisk + 1, ret := .disk s.nextDisk } := by
  show execLoadImage file s = _
  rw [execLoadImage, h]
  rfl

theorem exec_loadImage_error {file : List Byte} {r : Reason} (h : Image.decode file = .error r) (s : State) :
    exec (.loadImage file) s = .next { s with ret := answerOf r } := by
  show execLoadImage file s = _
  rw [execLoadImage, h]
  rfl

/-- A failure is never answered as an image. -/
theorem answerOf_ne_image (r : Reason) (img : Image) : answerOf r ≠ .image img := by
  cases r <;> nofun

/-! What the environment alone changes (45 R290; 10 R34, R39). -/

/-- The constants, the mount table, the identity counter, and the shape of every image. -/
def State.setup (s : State) : Params × Slots × DiskId × (DiskId → Option (Nat × SectorSize × Bool)) :=
  (s.params, s.dpSlot, s.nextDisk, fun d => (s.image d).map imageShape)

theorem State.setup_eq_iff {s t : State} : t.setup = s.setup ↔
    t.params = s.params ∧ t.dpSlot = s.dpSlot ∧ t.nextDisk = s.nextDisk ∧
      ∀ d, (t.image d).map imageShape = (s.image d).map imageShape := by
  simp only [State.setup, Prod.mk.injEq, funext_iff]

/-- An image replaced by one of its shape leaves the setup. -/
theorem State.setup_setImage (hi : s.image d = some img) {new : Image} (h : imageShape new = imageShape img) :
    (s.setImage d new).setup = s.setup := by
  refine State.setup_eq_iff.2 ⟨rfl, rfl, rfl, fun e => ?_⟩
  by_cases he : e = d
  · rw [he, State.image_setImage_same hi, hi, Option.map_some, Option.map_some, h]
  · rw [s.image_setImage_other he]

theorem State.setup_putSector (hi : s.image d = some img) (n : Nat) (data : List Byte) :
    (s.putSector d img n data).setup = s.setup := State.setup_setImage hi rfl

theorem State.setup_storeSector (hi : s.image d = some img) (n : Nat) (data : List Byte) :
    (s.storeSector d img n data).setup = s.setup := by
  rcases s.storeSector_eq d img n data with ⟨-, -, e⟩ | ⟨r, e⟩
  · rw [e]; exact State.setup_putSector hi n data
  · rw [e]; rfl

/-- Where the step completes, it leaves the setup of `s`. -/
def KeepsSetup (s : State) (r : Result) : Prop := ∀ t, r = .next t → t.setup = s.setup

namespace KeepsSetup

theorem of_next {t : State} (h : t.setup = s.setup) : KeepsSetup s (.next t) := by
  rintro _ ⟨⟩; exact h

theorem of_ite {c : Prop} [Decidable c] {r r' : Result} (h : KeepsSetup s r) (h' : KeepsSetup s r') :
    KeepsSetup s (if c then r else r') := by
  split
  · exact h
  · exact h'

theorem of_withImage {k : Image → Result} (hk : ∀ img, s.image d = some img → KeepsSetup s (k img)) :
    KeepsSetup s (s.withImage d k) := fun t h => by
  obtain ⟨img, hi, h⟩ := State.withImage_next h
  exact hk img hi t h

theorem of_finish {α : Type} (v : Except Reason α) (k : α → Answer) : KeepsSetup s (.next (s.finish v k)) :=
  of_next (by rw [s.finish_eq v k]; rfl)

theorem of_lookup {α : Type} (v : Image → Except Reason α) (k : α → Answer) : KeepsSetup s (s.lookup d v k) :=
  of_withImage fun img _ => of_finish (v img) k

theorem of_readSector (n : Nat) : KeepsSetup s (s.readSector d n) :=
  of_withImage fun _ _ => of_ite (of_next rfl) (of_next rfl)

theorem of_sendPayloadAs (v : Variant) (p : List Byte) : KeepsSetup s (sendPayloadAs v p s) := fun t h => by
  obtain ⟨-, -, rfl⟩ := sendPayloadAs_next h
  rfl

theorem of_runCommand (c : Command) : KeepsSetup s (runCommand c s) := fun t h => by
  rcases runCommand_next h with ⟨r, rfl⟩ | rfl | ⟨p, -, rfl⟩ | ⟨wp, rfl⟩ <;> rfl

theorem of_execDispatch (p : List Byte) (now : Time) : KeepsSetup s (execDispatch p now s) := fun t h => by
  rcases execDispatch_next h with ⟨-, h⟩ | ⟨wp, -, h⟩
  · exact of_runCommand _ t h
  · rcases writeData_next h with ⟨r, rfl⟩ | ⟨d, img, -, hi, -, rfl⟩
    · rfl
    · exact State.setup_putSector hi wp.sec.toNat p

theorem of_execRxByte (b : Byte) (now : Time) : KeepsSetup s (execRxByte b now s) := fun t h => by
  rcases execRxByte_next h with ⟨-, rfl⟩ | ⟨ph, n, m, buf, k, rfl | ⟨-, -, payload, h | rfl⟩⟩
  · rfl
  · rfl
  · have hkept := of_execDispatch payload now t h
    exact hkept
  · rfl

theorem of_rxBytes (now : Time) (bs : List Byte) : KeepsSetup s (rxBytes now bs s) := by
  induction bs generalizing s with
  | nil => exact of_next rfl
  | cons b bs ih =>
    intro t h
    rw [rxBytes] at h
    split at h
    next u hu => exact (ih t h).trans (of_execRxByte b now u hu)
    · cases h
    · cases h

theorem of_execFireDeferred (now : Time) : KeepsSetup s (execFireDeferred now s) := fun t h => by
  rcases execFireDeferred_next h with rfl | ⟨e, rest, -, -, -, rfl⟩ <;> rfl

end KeepsSetup

/-- The operations by which the environment changes the setup (45 R283 to R289). -/
def changesSetup : Instr → Bool
  | .newImage => true
  | .loadImage _ => true
  | .destroyImage _ => true
  | .setLock _ _ => true
  | .mount _ _ => true
  | .unmount _ => true
  | _ => false

open KeepsSetup in
/-- Every other operation leaves the setup: at most it writes sectors. -/
theorem keepsSetup_exec {i : Instr} (h : changesSetup i = false) (s : State) : KeepsSetup s (exec i s) := by
  cases i with
  | newImage | loadImage | destroyImage | setLock | mount | unmount => cases h
  | frameIn payload cs now | writeDataFrame payload cs now => exact of_rxBytes now _
  | rxByte b now => exact of_execRxByte b now
  | dispatch p now => exact of_execDispatch p now
  | writeData data now =>
    have hkept := of_execDispatch (s := s) data now
    rwa [execDispatch_eq_execWriteData] at hkept
  | decodeCommand p now => exact of_runCommand (decodeCommand p)
  | cmdS sel => exact of_runCommand (.cmdS sel)
  | cmdRChunk sel sec off => exact of_runCommand (.cmdRChunk sel sec off)
  | cmdRProbe sel sec => exact of_runCommand (.cmdRProbe sel sec)
  | replyDataA p | replyDataB p | sendPayloadA p | sendPayloadB p => exact of_sendPayloadAs _ p
  | fireDeferred now => exact of_execFireDeferred now
  | sector d n | envSector d n => exact of_readSector n
  | writeSector d n data => exact of_withImage fun img hi => of_next (State.setup_storeSector hi n data)
  | envWriteSector d n data =>
    refine of_withImage fun img hi => of_ite (of_next rfl) ?_
    have hstore := State.setup_storeSector hi n data
    exact of_ite (of_next hstore) (of_next hstore)
  | memWrite d n data =>
    exact of_withImage fun img hi => of_ite (of_next (State.setup_putSector hi n data)) (by rintro t ⟨⟩)
  | memRead d n off len =>
    exact of_withImage fun _ _ => of_ite (of_next rfl) (of_ite (of_next rfl) (of_next rfl))
  | len d n => exact of_withImage fun _ _ => of_ite (of_next rfl) (of_next rfl)
  | imageHeader | resolveDrive | decodeImage | encodeImage => exact of_finish _ _
  | imageSize | numSectors | saveImage | isDos2 | vtocVersion | vtocFreeCount | hasVtoc2 | vtoc2FreeCount
  | sectorIsFree | freeSectorList | bitmapFreeCount | dirEntry | directory | tail | fileContents =>
    exact of_lookup _ _
  | cmdW | cmdP | other | emptyOrShort | codeA | codeC | codeE | codeN | sendCode | replyError | feReset
  | statusPayload | dirEntryStruct | vtocStruct | vtoc2Struct | chainTail | createEmpty | openTransport
  | closeTransport | checksum | entryKind | entryName => exact of_next rfl

/-- `DestroyImage` leaves the slots as `Unmount` does (45 R286). -/
theorem exec_destroyImage_dpSlot {t u : State} (h : exec (.destroyImage d) s = .next t)
    (hu : exec (.unmount d) s = .next u) : t.dpSlot = u.dpSlot := by
  rw [exec_destroyImage] at h
  cases h
  cases hu
  rfl

/-- `LoadImage` changes neither the mount table nor a constant (45 R284). -/
theorem exec_loadImage_next {file : List Byte} {t : State} (h : exec (.loadImage file) s = .next t) :
    t.params = s.params ∧ t.dpSlot = s.dpSlot := by
  cases hv : Image.decode file with
  | ok img => rw [exec_loadImage_ok hv] at h; cases h; exact ⟨rfl, rfl⟩
  | error r => rw [exec_loadImage_error hv] at h; cases h; exact ⟨rfl, rfl⟩

/-- `Mount`, done or refused, changes neither an image nor a constant (45 R288). -/
theorem exec_mount_next {slot : Nat} {t : State} (h : exec (.mount d slot) s = .next t) :
    t.params = s.params ∧ t.nextDisk = s.nextDisk ∧ t.disks = s.disks := by
  by_cases hr : slot ≤ 7 ∧ (s.image d).isSome = true
  · rw [exec_mount hr.1 hr.2] at h
    cases h
    exact ⟨rfl, rfl, rfl⟩
  · rw [exec_mount_refused ((not_and_or.1 hr).imp Nat.not_le.1 Option.not_isSome_iff_eq_none.1)] at h
    cases h
    exact ⟨rfl, rfl, rfl⟩

/-- `SetLock` changes neither the set of images nor the mount table nor a constant (45 R287). -/
theorem exec_setLock_next {v : Bool} {t : State} (h : exec (.setLock d v) s = .next t) :
    t.params = s.params ∧ t.dpSlot = s.dpSlot ∧ t.nextDisk = s.nextDisk ∧
      ∀ e, (t.image e).isSome = (s.image e).isSome := by
  obtain ⟨img, hi, h⟩ := State.withImage_next h
  cases h
  refine ⟨rfl, rfl, rfl, fun e => ?_⟩
  obtain rfl | he := eq_or_ne e d
  · have hnew := congrArg Option.isSome (State.image_setImage_same hi { img with lock := v })
    exact hnew.trans (congrArg Option.isSome hi).symm
  · exact congrArg Option.isSome (s.image_setImage_other he _)

/-! The statements about the environment. -/

/-- Settles O17: an operation other than the six leaves the setup whole, and each of the six writes its own part only. -/
theorem onlyTheEnvironmentChangesMountsImagesAndLocks :
    Obligations.OnlyTheEnvironmentChangesMountsImagesAndLocks := by
  intro i s t h
  have hdestroy d u (hd : i = .destroyImage d) (hu : exec (.unmount d) s = .next u) : t.dpSlot = u.dpSlot := by
    subst hd
    exact exec_destroyImage_dpSlot h hu
  cases i with
  | newImage =>
    cases h
    exact ⟨rfl, fun _ _ _ => rfl, fun hi => absurd rfl hi, fun hi => absurd rfl hi, hdestroy⟩
  | loadImage file =>
    obtain ⟨hps, hslot⟩ := exec_loadImage_next h
    exact ⟨hps, fun _ _ _ => hslot, fun _ hi => absurd rfl (hi file), fun _ hi => absurd rfl (hi file), hdestroy⟩
  | destroyImage d =>
    rw [exec_destroyImage] at h
    cases h
    exact ⟨rfl, fun _ _ hi => absurd rfl (hi d), fun _ _ hi => absurd rfl (hi d),
      fun _ _ hi => absurd rfl (hi d), hdestroy⟩
  | setLock d v =>
    obtain ⟨hps, hslot, hnext, hset⟩ := exec_setLock_next h
    exact ⟨hps, fun _ _ _ => hslot, fun _ _ _ => ⟨hnext, hset⟩, fun _ _ _ hi => absurd rfl (hi d v), hdestroy⟩
  | mount d slot =>
    obtain ⟨hps, hnext, hdisks⟩ := exec_mount_next h
    have himage e : t.image e = s.image e := congrArg (findDisk · e) hdisks
    exact ⟨hps, fun hi => absurd rfl (hi d slot), fun _ _ _ => ⟨hnext, fun e => congrArg _ (himage e)⟩,
      fun _ _ _ _ e => congrArg _ (himage e), hdestroy⟩
  | unmount d =>
    cases h
    exact ⟨rfl, fun _ hi => absurd rfl (hi d), fun _ _ _ => ⟨rfl, fun _ => rfl⟩, fun _ _ _ _ _ => rfl, hdestroy⟩
  | _ =>
    obtain ⟨hps, hslot, hnext, hshape⟩ := State.setup_eq_iff.1 (keepsSetup_exec rfl s t h)
    have hset e : (t.image e).isSome = (s.image e).isSome := by simpa using congrArg Option.isSome (hshape e)
    exact ⟨hps, fun _ _ _ => hslot, fun _ _ _ => ⟨hnext, hset⟩, fun _ _ _ _ => hshape, hdestroy⟩

/-- Settles O49: one rule covers both cases, for taking a disk that is in no slot out of every slot changes nothing. -/
theorem destroyedImageIsGone : Obligations.DestroyedImageIsGone := fun s d =>
  ⟨_, exec_destroyImage d s, rfl, s.dpSlot.holds_iff d, (findDisk_remove s.disks d d).trans (if_pos rfl),
    fun e he => (findDisk_remove s.disks d e).trans (if_neg he), s.dpSlot.get_clear d⟩

/-- Settles O51: a slot is read after the disk has been taken out of the table and, for `Mount`, put in one slot. -/
theorem mountAndUnmount : Obligations.MountAndUnmount := by
  intro s d slot
  refine ⟨fun hslot hi => ⟨_, exec_mount hslot hi, rfl, ?_, fun j hj => ?_⟩, exec_mount_refused,
    _, exec_unmount d s, rfl, s.dpSlot.get_clear d⟩
  · exact (Slots.get_put _ slot slot (some d) (by omega)).trans (if_pos rfl)
  · exact (Slots.get_put _ slot j (some d) (by omega)).trans ((if_neg hj).trans (s.dpSlot.get_clear d j))

/-- Settles O47: the two cases are those of `Decode`, and the next identity is fresh. -/
theorem loadImageStoresOrRejects : Obligations.LoadImageStoresOrRejects := by
  intro s file
  rw [exec_decodeImage]
  cases hv : Image.decode file with
  | ok img => exact .inl ⟨img, rfl, exec_loadImage_ok hv s, State.nextDisk_fresh⟩
  | error r => exact .inr ⟨answerOf r, answerOf_ne_image r, rfl, exec_loadImage_error hv s⟩

/-- Settles O48: both are the reset of the frame engine and a few fields more. -/
theorem openAndClose : Obligations.OpenAndClose := fun _ => ⟨rfl, rfl⟩

/-- Settles O50: only the locked identity's image is replaced. -/
theorem setLockSetsOneLock : Obligations.SetLockSetsOneLock := fun s _ _ v hi =>
  ⟨_, exec_setLock hi v, rfl, State.image_setImage_same hi _, fun _ he => s.image_setImage_other he _⟩

end Sys2Proof.Machine
end

section
/-! The encoder read back: for every row that has an encoding, what it writes decodes to the row, whole (30 R90 to
R116). -/

namespace Sys2Proof

/-! Frames and data replies (30 R90, R93, R94). -/

/-- A frame read back, nothing following it (30 R90). -/
theorem decodeLengthPrefixed_frameBytes {p : List Byte} (h : p.length ≤ 255) (cs : Byte) :
    decodeLengthPrefixed (frameBytes p cs) = .ok (p, cs, []) := by
  simpa using decodeLengthPrefixed_frame h cs []

theorem decode_frameIn {payload : List Byte} (h : payload.length ≤ 255) (cs : Byte) (now : Time) :
    decode .frame now (frameBytes payload cs) = .ok (.frameIn payload cs now, []) := by
  rw [decode, decodeLengthPrefixed_frameBytes h]

theorem decode_writeDataFrame {data : List Byte} (h : data.length = 128) (cs : Byte) (now : Time) :
    decode .dataFrame now (frameBytes data cs) = .ok (.writeDataFrame data cs now, []) := by
  rw [decode, decodeLengthPrefixed_frameBytes (by omega)]
  exact if_pos h

theorem decode_replyDataA {p : List Byte} (h : p.length ≤ 255) (now : Time) :
    decode .replyA now (replyFrame .A p) = .ok (.replyDataA p, []) := by
  rw [decode, replyFrame, decodeLengthPrefixed_frameBytes h]
  exact if_pos rfl

theorem decode_replyDataB {p : List Byte} (h : p.length ≤ 255) (now : Time) :
    decode .replyB now (replyFrame .B p) = .ok (.replyDataB p, []) := by
  have hlen : ¬256 < (p ++ [checksum p]).length := by rw [List.length_append, List.length_singleton]; omega
  rw [replyFrame, List.cons_append, decode, if_neg (not_not.2 rfl), if_neg (by simp), if_neg hlen,
    List.getLastD_concat, List.dropLast_concat, if_pos rfl]

/-! Command payloads (30 R96 to R98; 42 R171). -/

theorem decode_command {payload : List Byte} (h : payload.length ≤ 255) (now : Time) :
    decode .command now payload = .ok ((decodeCommand payload).toInstr, []) := if_neg (Nat.not_lt.2 h)

theorem decodeCommand_S (sel : Byte) (more : List Byte) : decodeCommand (0x53 :: sel :: more) = .cmdS sel := by
  simp [decodeCommand, isCommandCode, commandNeed]

/-- The offset byte tells a probe from a read of a chunk (30 R98). -/
theorem decodeCommand_R (sel lo hi off : Byte) (more : List Byte) :
    decodeCommand (0x52 :: sel :: lo :: hi :: off :: more) =
      if off = probeOffset then .cmdRProbe sel (le16 lo hi) else .cmdRChunk sel (le16 lo hi) off := by
  simp [decodeCommand, isCommandCode, commandNeed]

theorem decodeCommand_short {cmd : Byte} {args : List Byte} (hcmd : isCommandCode cmd = true)
    (h : args.length + 1 < commandNeed cmd) : decodeCommand (cmd :: args) = .emptyOrShort (cmd :: args) :=
  (if_neg (by simp [hcmd])).trans (if_pos h)

theorem decodeCommand_emptyOrShort {payload : List Byte} (h : isEmptyOrShort payload = true) :
    decodeCommand payload = .emptyOrShort payload := by
  cases payload with
  | nil => rfl
  | cons cmd args =>
    obtain ⟨hcmd, hshort⟩ := Bool.and_eq_true_iff.1 h
    exact decodeCommand_short hcmd (of_decide_eq_true hshort)

theorem decode_readPayload (sel : Byte) (sec : BitVec 16) (off : Byte) (now : Time) :
    decode .command now (readPayload sel sec off) =
      .ok (if off = probeOffset then .cmdRProbe sel sec else .cmdRChunk sel sec off, []) := by
  rw [decode_command (by simp [readPayload]), readPayload, decodeCommand_R, le16_lo8_hi8]
  split <;> rfl

theorem decode_emptyOrShort {payload : List Byte} (h : isEmptyOrShort payload = true) (now : Time) :
    decode .command now payload = .ok (.emptyOrShort payload, []) := by
  have hlen : payload.length ≤ 5 := of_decide_eq_true (Laws.EncodingShape.emptyOrShort payload .command _ h rfl)
  rw [decode_command (by omega), decodeCommand_emptyOrShort h]
  rfl

/-! Layouts of fixed size (30 R100, R110 to R116). -/

/-- A field's bytes, read one offset after the other, are the field. -/
theorem map_range_getD {bs pre field post : List Byte} {off n : Nat} (hbs : bs = pre ++ (field ++ post))
    (hoff : pre.length = off) (hn : field.length = n) :
    (List.range n).map (fun k => bs.getD (off + k) 0) = field := by
  subst hbs hoff hn
  refine List.ext_getElem (by simp) fun k _ hk => ?_
  rw [List.getElem_map, List.getElem_range, List.getD_append_right _ _ _ _ (Nat.le_add_right ..),
    Nat.add_sub_cancel_left, List.getD_append _ _ _ _ hk, List.getD_eq_getElem _ _ hk]

/-- A field of two bytes is read little-endian (20 R65). -/
theorem le16_getD {bs pre post : List Byte} {v : BitVec 16} {off : Nat} (hbs : bs = pre ++ (lo8 v :: hi8 v :: post))
    (hoff : pre.length = off) : le16 (bs.getD off 0) (bs.getD (off + 1) 0) = v := by
  subst hbs hoff
  simp [List.getD_eq_getElem?_getD]

theorem dirRecordAt_bytes {r : DirRecord} (h : r.wellFormed = true) :
    dirRecordAt (fun o => r.bytes.getD o 0) = r := by
  obtain ⟨flags, length, start, filename, extension⟩ := r
  simp only [DirRecord.wellFormed, Bool.and_eq_true, beq_iff_eq] at h
  obtain ⟨hname, hext⟩ := h
  simp only [dirRecordAt, DirRecord.mk.injEq]
  refine ⟨rfl, le16_lo8_hi8 _, le16_lo8_hi8 _, ?_, ?_⟩
  · exact map_range_getD (pre := [flags, lo8 length, hi8 length, lo8 start, hi8 start]) (post := extension) rfl rfl
      hname
  · exact map_range_getD (pre := [flags, lo8 length, hi8 length, lo8 start, hi8 start] ++ filename) (post := [])
      (by simp [DirRecord.bytes]) (by simp [hname]) hext

theorem vtocAt_bytes {v : Vtoc} (h : v.wellFormed = true) : vtocAt (fun o => v.bytes.getD o 0) = v := by
  obtain ⟨version, gap1, free, gap2, bitmap⟩ := v
  simp only [Vtoc.wellFormed, Bool.and_eq_true, beq_iff_eq] at h
  obtain ⟨⟨hgap1, hgap2⟩, hbitmap⟩ := h
  simp only [vtocAt, Vtoc.mk.injEq]
  refine ⟨rfl, ?_, ?_, ?_, ?_⟩
  · exact map_range_getD (pre := [version]) (by simp [Vtoc.bytes]; rfl) rfl hgap1
  · exact le16_getD (pre := version :: gap1) (post := gap2 ++ bitmap) (by simp [Vtoc.bytes]) (by simp [hgap1])
  · exact map_range_getD (pre := version :: gap1 ++ [lo8 free, hi8 free]) (post := bitmap) (by simp [Vtoc.bytes])
      (by simp [hgap1]) hgap2
  · exact map_range_getD (pre := version :: gap1 ++ [lo8 free, hi8 free] ++ gap2) (post := []) (by simp [Vtoc.bytes])
      (by simp [hgap1, hgap2]) hbitmap

theorem vtoc2At_bytes {v : Vtoc2} (h : v.wellFormed = true) : vtoc2At (fun o => v.bytes.getD o 0) = v := by
  obtain ⟨gap, bitmap, free⟩ := v
  simp only [Vtoc2.wellFormed, Bool.and_eq_true, beq_iff_eq] at h
  obtain ⟨hgap, hbitmap⟩ := h
  simp only [vtoc2At, Vtoc2.mk.injEq]
  refine ⟨?_, ?_, ?_⟩
  · simpa using map_range_getD (pre := []) (off := 0) (by simp [Vtoc2.bytes]; rfl) rfl hgap
  · exact map_range_getD (pre := gap) (by simp [Vtoc2.bytes]; rfl) hgap hbitmap
  · exact le16_getD (pre := gap ++ bitmap) (post := []) (by simp [Vtoc2.bytes]) (by simp [hgap, hbitmap])

/-- The two parts of the next-sector number are put together again (30 R116; 20 R66). -/
theorem tailOf_bytes (t : Tail) :
    tailOf (t.fileNo ++ t.next.extractLsb' 8 2) (t.next.extractLsb' 0 8) t.dataLen = t := by
  obtain ⟨fileNo, next, dataLen⟩ := t
  rw [tailOf, BitVec.extractLsb'_append_eq_left, BitVec.extractLsb'_append_eq_right,
    BitVec.extractLsb'_append_extractLsb']

/-- A fixed layout takes exactly its own bytes. -/
theorem decodeFixed_whole {size : Nat} {bs : List Byte} (h : bs.length = size) (k : (Nat → Byte) → Instr) :
    decodeFixed size bs k = .ok (k fun o => bs.getD o 0, []) := by
  rw [decodeFixed, if_neg (by omega), List.drop_of_length_le (by omega)]

theorem decode_imageHeader (paragraphs sectorSize : BitVec 16) (now : Time) :
    decode .header now (headerBytes paragraphs sectorSize) = .ok (.imageHeader paragraphs sectorSize, []) := by
  simp [decode, headerBytes, Config.headerLen]

theorem decode_statusPayload (flags byte1 reserved : Byte) (now : Time) :
    decode .status now (statusBytes flags byte1 reserved) = .ok (.statusPayload flags byte1 reserved, []) := by
  simp [decode, statusBytes]

theorem decode_dirEntryStruct {r : DirRecord} (h : r.wellFormed = true) (now : Time) :
    decode .dirEntry now r.bytes = .ok (.dirEntryStruct r, []) := by
  have hlen : r.bytes.length = 16 := eq_of_beq (Laws.EncodingShape.dirEntryStruct r .dirEntry _ h rfl)
  rw [decode, decodeFixed_whole hlen, dirRecordAt_bytes h]

theorem decode_vtocStruct {v : Vtoc} (h : v.wellFormed = true) (now : Time) :
    decode .vtoc now v.bytes = .ok (.vtocStruct v, []) := by
  have hlen : v.bytes.length = 100 := eq_of_beq (Laws.EncodingShape.vtocStruct v .vtoc _ h rfl)
  rw [decode, decodeFixed_whole hlen, vtocAt_bytes h]

theorem decode_vtoc2Struct {v : Vtoc2} (h : v.wellFormed = true) (now : Time) :
    decode .vtoc2 now v.bytes = .ok (.vtoc2Struct v, []) := by
  have hlen : v.bytes.length = 124 := eq_of_beq (Laws.EncodingShape.vtoc2Struct v .vtoc2 _ h rfl)
  rw [decode, decodeFixed_whole hlen, vtoc2At_bytes h]

theorem decode_chainTail (t : Tail) (now : Time) : decode .tail now t.bytes = .ok (.chainTail t, []) := by
  have hlen : t.bytes.length = 3 := rfl
  have hbytes : tailOf (t.bytes.getD 0 0) (t.bytes.getD 1 0) (t.bytes.getD 2 0) = t := tailOf_bytes t
  rw [decode, decodeFixed_whole hlen, hbytes]

/-! The statement about the encoder. -/

/-- Settles O1: one case per row that has an encoding, by the rule of its format. -/
theorem decodeOfEncodeIsIdentity : Obligations.DecodeOfEncodeIsIdentity := by
  intro i f bs hw he
  cases i with
  | frameIn payload cs now => cases he; exact decode_frameIn (of_decide_eq_true hw) cs now
  | writeDataFrame data cs now => cases he; exact decode_writeDataFrame (eq_of_beq hw) cs now
  | replyDataA p => cases he; exact decode_replyDataA (of_decide_eq_true hw) _
  | replyDataB p => cases he; exact decode_replyDataB (of_decide_eq_true hw) _
  | cmdS sel => cases he; rw [decode_command (by simp), decodeCommand_S]; rfl
  | cmdRChunk sel sec off => cases he; rw [decode_readPayload, if_neg (bne_iff_ne.1 hw)]
  | cmdRProbe sel sec => cases he; rw [decode_readPayload, if_pos rfl]
  | cmdW sel sec => cases he; rw [decode_command (by simp), decodeCommand_W, le16_lo8_hi8]; rfl
  | cmdP sel sec => cases he; rw [decode_command (by simp), decodeCommand_P, le16_lo8_hi8]; rfl
  | writeData data now => cases he; exact if_neg (Nat.not_lt.2 (of_decide_eq_true hw))
  | other cmd =>
    cases he; rw [decode_command (by simp), decodeCommand_other (by simpa [Instr.wellFormed] using hw)]; rfl
  | emptyOrShort payload => cases he; exact decode_emptyOrShort hw _
  | codeA | codeC | codeE | codeN | rxByte => cases he; rfl
  | imageHeader paragraphs size => cases he; exact decode_imageHeader paragraphs size _
  | statusPayload flags byte1 reserved => cases he; exact decode_statusPayload flags byte1 reserved _
  | dirEntryStruct r => cases he; exact decode_dirEntryStruct hw _
  | vtocStruct v => cases he; exact decode_vtocStruct hw _
  | vtoc2Struct v => cases he; exact decode_vtoc2Struct hw _
  | chainTail t => cases he; exact decode_chainTail t _
  | _ => cases he

end Sys2Proof
end

section
/-! The invariant: what each update of the state keeps of it, then each operation, then a step (10 R24, R30, R31, R33,
R36; log 9, 10). -/

namespace Sys2Proof.Machine

/-! The slots and the live identities. -/

theorem Slots.get_clear_eq_some {t : Slots} {d e : DiskId} {k : Nat} :
    (t.clear d).get k = some e ↔ t.get k = some e ∧ e ≠ d := by
  rw [t.get_clear, dropDisk_eq_some]

/-- A disk that has been taken out of the table is in no slot. -/
theorem Slots.get_clear_ne (t : Slots) (d : DiskId) (k : Nat) : (t.clear d).get k ≠ some d :=
  fun h => (Slots.get_clear_eq_some.1 h).2 rfl

/-! The invariant in parts, over the live identities. -/

/-- The live identities (10 R36). -/
def State.ids (s : State) : List DiskId := s.disks.map Prod.fst

theorem State.idsInOrder_iff (s : State) :
    s.idsInOrder = true ↔ s.ids.Pairwise (· < ·) ∧ ∀ d ∈ s.ids, d < s.nextDisk := by
  simp [State.idsInOrder, State.ids, List.pairwise_map]

theorem State.ids_setImage (s : State) (d : DiskId) (img : Image) : (s.setImage d img).ids = s.ids := by
  rw [State.ids, State.setImage_disks, replaceDisk, List.map_map]
  refine List.map_congr_left fun e _ => ?_
  by_cases he : e.1 = d <;> simp [he]

theorem State.isSome_image_iff (s : State) (d : DiskId) : (s.image d).isSome = true ↔ d ∈ s.ids :=
  findDisk_isSome_iff s.disks d

/-- The invariant of the block, each part by name. -/
structure State.Inv (s : State) : Prop where
  /-- Memories are canonical and inside their sectors (log 9). -/
  wf : ∀ e ∈ s.disks, e.2.wf = true
  /-- Identities are in order (10 R36). -/
  sorted : s.ids.Pairwise (· < ·)
  /-- Every identity lies below the next one (10 R31). -/
  below : ∀ d ∈ s.ids, d < s.nextDisk
  /-- Every mounted identity is live (10 R30). -/
  live : ∀ k d, s.dpSlot.get k = some d → d ∈ s.ids
  /-- No identity is in two slots (10 R30). -/
  once : ∀ j k d, s.dpSlot.get j = some d → s.dpSlot.get k = some d → j = k
  /-- While accumulating, the bytes received and those to come make up the frame (10 R24). -/
  counted : s.fePhase = .accum → s.feRemaining.toNat + s.feBuf.length = s.feN.toNat + 1 ∧ 1 ≤ s.feRemaining.toNat
  /-- Only a complete code is scheduled (10 R33). -/
  complete : ∀ e ∈ s.dpDeferred, e.bytes = [0x43]

theorem State.inv_iff (s : State) : s.inv = true ↔ s.Inv := by
  simp only [State.inv, Bool.and_eq_true, s.idsInOrder_iff, s.slotsLive_iff, s.slotsOnce_iff, s.frameCounted_iff,
    s.isSome_image_iff, State.imagesWf, State.deferredComplete, List.all_eq_true, beq_iff_eq]
  constructor
  · rintro ⟨⟨⟨⟨⟨hwf, hsorted, hbelow⟩, hlive⟩, honce⟩, hcounted⟩, hcomplete⟩
    exact ⟨hwf, hsorted, hbelow, hlive, honce, hcounted, hcomplete⟩
  · rintro ⟨hwf, hsorted, hbelow, hlive, honce, hcounted, hcomplete⟩
    exact ⟨⟨⟨⟨⟨hwf, hsorted, hbelow⟩, hlive⟩, honce⟩, hcounted⟩, hcomplete⟩

/-- The fields that the invariant reads. -/
def State.invView (s : State) :
    (Phase × Byte × BitVec 9 × List Byte) × Slots × List Deferred × List (DiskId × Image) × DiskId :=
  ((s.fePhase, s.feN, s.feRemaining, s.feBuf), s.dpSlot, s.dpDeferred, s.disks, s.nextDisk)

/-! One rule per update of the state. -/

namespace State.Inv

variable {s : State} {d : DiskId} {img : Image} (h : s.Inv)
include h

/-- No other field counts. -/
theorem of_view {t : State} (hv : t.invView = s.invView) : t.Inv := by
  simp only [State.invView, Prod.mk.injEq] at hv
  obtain ⟨⟨hphase, hn, hm, hbuf⟩, hslot, hdeferred, hdisks, hnext⟩ := hv
  have hids : t.ids = s.ids := congrArg (List.map Prod.fst) hdisks
  exact ⟨hdisks ▸ h.wf, hids ▸ h.sorted, hids ▸ hnext ▸ h.below, hids ▸ hslot ▸ h.live, hslot ▸ h.once,
    hphase ▸ hn ▸ hm ▸ hbuf ▸ h.counted, hdeferred ▸ h.complete⟩

theorem image_wf (hi : s.image d = some img) : img.wf = true := h.wf _ (findDisk_mem hi)

/-- Between frames nothing is asked of the counters. -/
theorem awaitLen (n : Byte) (m : BitVec 9) (buf : List Byte) :
    ({ s with fePhase := .awaitLen, feN := n, feRemaining := m, feBuf := buf } : State).Inv :=
  { h with counted := nofun }

theorem feReset : s.feReset.Inv := h.awaitLen s.feN s.feRemaining []

theorem idleChecked (now : Time) : (s.idleChecked now).Inv := by
  rcases s.idleChecked_eq now with e | e <;> rw [e]
  · exact h
  · exact h.feReset

/-- A length byte of value `N` asks for `N + 1` bytes, or the phase stays (41 R142). -/
theorem lengthByte (hp : s.fePhase = .awaitLen) (b : Byte) : (s.lengthByte b).Inv := by
  unfold State.lengthByte
  split
  · exact { h with counted := fun hp' => nomatch hp.symm.trans hp' }
  · refine { h with counted := fun _ => ?_ }
    have hb : (b.setWidth 9 + 1 : BitVec 9).toNat = b.toNat + 1 := by bv_omega
    exact ⟨hb, by rw [hb]; omega⟩

/-- A byte that is not the last of its frame leaves one less to come (41 R143). -/
theorem appendByte (hr : s.feRemaining ≠ 1) (b : Byte) :
    ({ s with feBuf := s.feBuf ++ [b], feRemaining := s.feRemaining - 1 } : State).Inv := by
  refine { h with counted := fun hp => ?_ }
  obtain ⟨hsum, hpos⟩ := h.counted hp
  have hsub : (s.feRemaining - 1).toNat = s.feRemaining.toNat - 1 := by bv_omega
  have htwo : s.feRemaining.toNat ≠ 1 := fun h1 => hr (BitVec.eq_of_toNat_eq h1)
  have hlen : (s.feBuf ++ [b]).length = s.feBuf.length + 1 := List.length_append
  dsimp only
  omega

/-- Another `C` is scheduled (42 R184). -/
theorem defer (due : Time) : (s.defer due [0x43]).Inv := by
  refine { h with complete := fun e he => ?_ }
  rcases List.mem_append.1 he with he | he
  · exact h.complete e he
  · rw [List.mem_singleton.1 he]

theorem dropDeferred {e : Deferred} {rest : List Deferred} (hq : s.dpDeferred = e :: rest) :
    ({ s with dpDeferred := rest } : State).Inv :=
  { h with complete := fun e' he => h.complete e' (hq ▸ List.mem_cons_of_mem e he) }

theorem clearDeferred : ({ s with dpDeferred := [] } : State).Inv := { h with complete := nofun }

/-- A live image is replaced by a canonical one (43 R212; 45 R287). -/
theorem setImage (hw : img.wf = true) (d : DiskId) : (s.setImage d img).Inv := by
  have hids : (s.setImage d img).ids = s.ids := s.ids_setImage d img
  refine { h with wf := fun e he => ?_, sorted := hids ▸ h.sorted, below := hids ▸ h.below, live := hids ▸ h.live }
  obtain ⟨old, hold, rfl⟩ := List.mem_map.1 he
  split
  · exact hw
  · exact h.wf old hold

theorem putSector (hi : s.image d = some img) {n : Nat} {data : List Byte} (hn : img.has n = true)
    (hlen : data.length = img.len n) : (s.putSector d img n data).Inv :=
  h.setImage (Image.wf_put (h.image_wf hi) hn hlen) d

/-- A store on a live disk replaces a sector, or logs (43 R212). -/
theorem storeSector (hi : s.image d = some img) (n : Nat) (data : List Byte) :
    (s.storeSector d img n data).Inv := by
  rcases s.storeSector_eq d img n data with ⟨hn, hlen, e⟩ | ⟨r, e⟩ <;> rw [e]
  · exact h.putSector hi hn hlen
  · exact h.of_view rfl

/-- A canonical image gets the next identity (45 R283, R284). -/
theorem addImage (hw : img.wf = true) : (s.addImage img).Inv := by
  have hids : (s.addImage img).ids = s.ids ++ [s.nextDisk] := List.map_append
  refine { h with wf := fun e he => ?_, sorted := ?_, below := ?_, live := ?_ }
  · rcases List.mem_append.1 he with he | he
    · exact h.wf e he
    · rw [List.mem_singleton.1 he]; exact hw
  · rw [hids, List.pairwise_append]
    exact ⟨h.sorted, List.pairwise_singleton .., fun d hd e he => List.mem_singleton.1 he ▸ h.below d hd⟩
  · intro d hd
    rw [hids, List.mem_append, List.mem_singleton] at hd
    rcases hd with hd | rfl
    · exact Nat.lt_succ_of_lt (h.below d hd)
    · exact Nat.lt_succ_self _
  · intro k d hk
    rw [hids]
    exact List.mem_append_left _ (h.live k d hk)

/-- A disk is taken out of the slots (45 R289). -/
theorem clearSlots (d : DiskId) : ({ s with dpSlot := s.dpSlot.clear d } : State).Inv := by
  have hslot {k e} (hk : (s.dpSlot.clear d).get k = some e) : s.dpSlot.get k = some e :=
    (Slots.get_clear_eq_some.1 hk).1
  exact { h with
    live := fun k e hk => h.live k e (hslot hk)
    once := fun j k e hj hk => h.once j k e (hslot hj) (hslot hk) }

/-- A disk that is in no slot is taken out of the images (45 R286). -/
theorem removeImage (hd : ∀ k, s.dpSlot.get k ≠ some d) :
    ({ s with disks := removeDisk s.disks d } : State).Inv := by
  have hsub : (removeDisk s.disks d).Sublist s.disks := List.filter_sublist
  have hids : ({ s with disks := removeDisk s.disks d } : State).ids.Sublist s.ids := hsub.map _
  refine { h with
    wf := fun e he => h.wf e (hsub.subset he)
    sorted := h.sorted.sublist hids
    below := fun e he => h.below e (hids.subset he)
    live := fun k e hk => ?_ }
  obtain ⟨x, hx, rfl⟩ := List.mem_map.1 (h.live k e hk)
  refine List.mem_map.2 ⟨x, List.mem_filter.2 ⟨hx, decide_eq_true ?_⟩, rfl⟩
  rintro rfl
  exact hd k hk

/-- A live disk that is in no slot is put in one (45 R288). -/
theorem putSlot {slot : Nat} (hslot : slot < 8) (hlive : d ∈ s.ids) (hd : ∀ k, s.dpSlot.get k ≠ some d) :
    ({ s with dpSlot := s.dpSlot.put slot (some d) } : State).Inv := by
  have hget k : (s.dpSlot.put slot (some d)).get k = if k = slot then some d else s.dpSlot.get k :=
    s.dpSlot.get_put slot k (some d) hslot
  refine { h with live := fun k e hk => ?_, once := fun j k e hj hk => ?_ }
  · simp only [hget] at hk
    split at hk
    · cases hk; exact hlive
    · exact h.live k e hk
  · simp only [hget] at hj hk
    split at hj <;> split at hk
    · omega
    · cases hj; exact absurd hk (hd k)
    · cases hk; exact absurd hj (hd j)
    · exact h.once j k e hj hk

end State.Inv

/-! The operations: what completes meets the invariant. -/

/-- Where the step completes, the invariant holds. -/
def GivesInv (r : Result) : Prop := ∀ t, r = .next t → t.Inv

namespace GivesInv

variable {s : State} {d : DiskId}

theorem of_next {t : State} (h : t.Inv) : GivesInv (.next t) := by
  rintro _ ⟨⟩; exact h

/-- A step that writes no field the invariant reads. -/
theorem of_view {t : State} (hs : s.Inv) (hv : t.invView = s.invView) : GivesInv (.next t) := of_next (hs.of_view hv)

theorem of_ite {c : Prop} [Decidable c] {r r' : Result} (h : GivesInv r) (h' : GivesInv r') :
    GivesInv (if c then r else r') := by
  split
  · exact h
  · exact h'

theorem of_withImage {k : Image → Result} (hk : ∀ img, s.image d = some img → GivesInv (k img)) :
    GivesInv (s.withImage d k) := fun t h => by
  obtain ⟨img, hi, h⟩ := State.withImage_next h
  exact hk img hi t h

section FromInv

variable (hs : s.Inv)
include hs

theorem of_finish {α : Type} (v : Except Reason α) (k : α → Answer) : GivesInv (.next (s.finish v k)) :=
  of_next (by rw [s.finish_eq v k]; exact hs.of_view rfl)

theorem of_lookup {α : Type} (v : Image → Except Reason α) (k : α → Answer) : GivesInv (s.lookup d v k) :=
  of_withImage fun img _ => of_finish hs (v img) k

theorem of_readSector (n : Nat) : GivesInv (s.readSector d n) :=
  of_withImage fun _ _ => of_ite (of_view hs rfl) (of_view hs rfl)

theorem of_sendPayloadAs (v : Variant) (p : List Byte) : GivesInv (sendPayloadAs v p s) := fun t h => by
  obtain ⟨-, -, rfl⟩ := sendPayloadAs_next h
  exact hs.of_view rfl

/-- A decoded command sends, or arms (42 R171). -/
theorem of_runCommand (c : Command) : GivesInv (runCommand c s) := fun t h => by
  rcases runCommand_next h with ⟨r, rfl⟩ | rfl | ⟨p, -, rfl⟩ | ⟨wp, rfl⟩ <;> exact hs.of_view rfl

/-- A committed write replaces one sector and schedules a `C` (42 R183, R184). -/
theorem of_execDispatch (p : List Byte) (now : Time) : GivesInv (execDispatch p now s) := fun t h => by
  rcases execDispatch_next h with ⟨-, h⟩ | ⟨wp, -, h⟩
  · exact of_runCommand hs _ t h
  · rcases writeData_next h with ⟨r, rfl⟩ | ⟨d, img, -, hi, hc, rfl⟩
    · exact hs.of_view rfl
    · obtain ⟨-, hn, hlen, hdata⟩ := writeCheck_none.1 hc
      have hput := hs.putSector hi hn (hdata.trans hlen.symm)
      exact (hput.defer (now + s.params.tCompleteMin)).of_view rfl

/-- At the end of a frame the phase is awaiting-length again, so its counters do not matter (41 R144 to R146). -/
theorem of_frameEnd (n : Byte) (m : BitVec 9) (buf : List Byte) (last : Option Time) (now : Time) :
    GivesInv (frameEnd now { s with feN := n, feRemaining := m, feBuf := buf, feLastRx := last }) := fun t h => by
  obtain ⟨payload, h | rfl⟩ := frameEnd_next h
  · refine of_execDispatch ?_ payload now t h
    exact (hs.awaitLen n m buf).of_view rfl
  · exact (hs.awaitLen n m buf).of_view rfl

/-- Every case of a received byte keeps the frame count (41 R140 to R146). -/
theorem of_execRxByte (b : Byte) (now : Time) : GivesInv (execRxByte b now s) := by
  cases ho : s.trOpen with
  | false => rw [execRxByte_closed ho]; exact of_view hs rfl
  | true =>
    cases hp : s.fePhase with
    | awaitLen =>
      rw [execRxByte_length ho hp]
      have hadmitted : ((s.idleChecked now).received now).Inv := (hs.idleChecked now).of_view rfl
      exact of_view (hadmitted.lengthByte (s.idleChecked_awaitLen hp now) b) rfl
    | accum =>
      by_cases hi : s.WithinIdle now
      · by_cases hr : s.feRemaining = 1
        · rw [execRxByte_last ho hp hr hi]
          exact of_frameEnd hs _ _ _ _ now
        · rw [execRxByte_middle ho hp hr hi]
          exact of_view (hs.appendByte hr b) rfl
      · simp only [State.WithinIdle, not_forall, Nat.not_le] at hi
        obtain ⟨last, hlast, hgap⟩ := hi
        rw [execRxByte_afterGap ho hlast hgap]
        have hreset : (s.feReset.received now).Inv := hs.feReset.of_view rfl
        exact of_view (hreset.lengthByte rfl b) rfl

theorem of_execFireDeferred (now : Time) : GivesInv (execFireDeferred now s) := fun t h => by
  rcases execFireDeferred_next h with rfl | ⟨e, rest, hq, -, -, rfl⟩
  · exact hs.of_view rfl
  · exact (hs.dropDeferred hq).of_view rfl

/-- `LoadImage` adds a decoded image, which is canonical, or only answers (45 R284). -/
theorem of_loadImage (file : List Byte) : GivesInv (exec (.loadImage file) s) := by
  cases hv : Image.decode file with
  | ok img =>
    rw [exec_loadImage_ok hv]
    exact of_view (hs.addImage (Image.wf_decode hv)) rfl
  | error r =>
    rw [exec_loadImage_error hv]
    exact of_view hs rfl

/-- `DestroyImage` takes the disk out of the slots, then out of the images (45 R286). -/
theorem of_destroyImage (d : DiskId) : GivesInv (exec (.destroyImage d) s) := by
  rw [exec_destroyImage]
  have hremove := (hs.clearSlots d).removeImage (s.dpSlot.get_clear_ne d)
  exact of_view hremove rfl

/-- `Mount` takes the disk out of the slots, then puts it in one (45 R288). -/
theorem of_mount (d : DiskId) (slot : Nat) : GivesInv (exec (.mount d slot) s) := by
  by_cases hr : slot ≤ 7 ∧ (s.image d).isSome = true
  · obtain ⟨hslot, hlive⟩ := hr
    rw [exec_mount hslot hlive]
    have hids : d ∈ s.ids := (s.isSome_image_iff d).1 hlive
    have hput := (hs.clearSlots d).putSlot (Nat.lt_succ_of_le hslot) hids (s.dpSlot.get_clear_ne d)
    exact of_view hput rfl
  · rw [exec_mount_refused ((not_and_or.1 hr).imp Nat.not_le.1 Option.not_isSome_iff_eq_none.1)]
    exact of_view hs rfl

end FromInv

theorem of_rxBytes (hs : s.Inv) (now : Time) (bs : List Byte) : GivesInv (rxBytes now bs s) := by
  induction bs generalizing s with
  | nil => exact of_next hs
  | cons b bs ih =>
    intro t h
    rw [rxBytes] at h
    split at h
    next u hu => exact ih (of_execRxByte hs b now u hu) t h
    · cases h
    · cases h

end GivesInv

open GivesInv in
/-- Every instruction keeps the invariant. -/
theorem givesInv_exec {s : State} (hs : s.Inv) (i : Instr) : GivesInv (exec i s) := by
  cases i with
  | frameIn payload cs now | writeDataFrame payload cs now => exact of_rxBytes hs now _
  | rxByte b now => exact of_execRxByte hs b now
  | dispatch p now => exact of_execDispatch hs p now
  | writeData data now =>
    have hkept := of_execDispatch hs data now
    rwa [execDispatch_eq_execWriteData] at hkept
  | decodeCommand p now => exact of_runCommand hs (decodeCommand p)
  | cmdS sel => exact of_runCommand hs (.cmdS sel)
  | cmdRChunk sel sec off => exact of_runCommand hs (.cmdRChunk sel sec off)
  | cmdRProbe sel sec => exact of_runCommand hs (.cmdRProbe sel sec)
  | replyDataA p | replyDataB p | sendPayloadA p | sendPayloadB p => exact of_sendPayloadAs hs _ p
  | fireDeferred now => exact of_execFireDeferred hs now
  | sector d n | envSector d n => exact of_readSector hs n
  | writeSector d n data => exact of_withImage fun img hi => of_view (hs.storeSector hi n data) rfl
  | envWriteSector d n data =>
    refine of_withImage fun img hi => of_ite (of_view hs rfl) ?_
    have hstore := hs.storeSector hi n data
    exact of_ite (of_view hstore rfl) (of_view hstore rfl)
  | memWrite d n data =>
    refine of_withImage fun img hi => ?_
    split
    next hreq => exact of_view (hs.putSector hi hreq.1 hreq.2) rfl
    · rintro t ⟨⟩
  | memRead d n off len =>
    exact of_withImage fun _ _ => of_ite (of_view hs rfl) (of_ite (of_view hs rfl) (of_view hs rfl))
  | len d n => exact of_withImage fun _ _ => of_ite (of_view hs rfl) (of_view hs rfl)
  | newImage => exact of_view (hs.addImage Image.wf_empty) rfl
  | loadImage file => exact of_loadImage hs file
  | destroyImage d => exact of_destroyImage hs d
  | setLock d v => exact of_withImage fun img hi => of_view (hs.setImage (Image.wf_lock (hs.image_wf hi) v) d) rfl
  | mount d slot => exact of_mount hs d slot
  | unmount d => exact of_view (hs.clearSlots d) rfl
  | openTransport => exact of_view hs.feReset rfl
  | closeTransport => exact of_view hs.feReset.clearDeferred rfl
  | feReset => exact of_view hs.feReset rfl
  | imageHeader | resolveDrive | decodeImage | encodeImage => exact of_finish hs _ _
  | imageSize | numSectors | saveImage | isDos2 | vtocVersion | vtocFreeCount | hasVtoc2 | vtoc2FreeCount
  | sectorIsFree | freeSectorList | bitmapFreeCount | dirEntry | directory | tail | fileContents =>
    exact of_lookup hs _ _
  | cmdW | cmdP | other | emptyOrShort | codeA | codeC | codeE | codeN | sendCode | replyError
  | statusPayload | dirEntryStruct | vtocStruct | vtoc2Struct | chainTail | createEmpty
  | checksum | entryKind | entryName => exact of_view hs rfl

/-! A step. -/

/-- Fetching an instruction changes the pending inputs alone (log 3). -/
theorem fetch_run {s u : State} {i : Instr} (h : fetch s = .run i u) : ∃ later, u = { s with inputs := later } := by
  unfold fetch at h
  split at h
  · cases h
  · cases h; exact ⟨_, rfl⟩
  · split at h
    · cases h; exact ⟨_, rfl⟩
    · cases h

/-- What a step can do: with nothing pending nothing, else run one instruction, with other inputs pending (20 R76;
log 3). -/
theorem step_next {s t : State} (h : step s = .next t) :
    t = s ∨ ∃ i later, exec i { s with inputs := later } = .next t := by
  unfold step at h
  split at h
  next => cases h; exact .inl rfl
  next i u hf =>
    obtain ⟨later, rfl⟩ := fetch_run hf
    split at h
    · exact .inr ⟨i, later, h⟩
    · cases h
  next => cases h

/-- Settles O8: what a step takes off the inputs the invariant does not read, and the instruction keeps it. -/
theorem stepKeepsInvariant : Obligations.StepKeepsInvariant := by
  intro s t hinv h
  rw [State.inv_iff] at hinv ⊢
  rcases step_next h with rfl | ⟨i, later, h⟩
  · exact hinv
  · refine givesInv_exec ?_ i t h
    exact hinv.of_view rfl

end Sys2Proof.Machine
end

section
/-! Noninterference: a received byte writes an image only through a committed write, on a mounted, unlocked disk (20
R64, R74; 60 R310). -/

namespace Sys2Proof.Machine

/-- From `s` to `t` no image has changed but one that is mounted and unlocked. -/
def WritesOnlyWritable (s t : State) : Prop :=
  ∀ d, t.image d = s.image d ∨
    ((∃ k, s.dpSlot.get k = some d) ∧ ∃ img, s.image d = some img ∧ img.lock = false)

/-- A decoded command writes no image (42 R171). -/
theorem runCommand_disks {c : Command} {s t : State} (h : runCommand c s = .next t) : t.disks = s.disks := by
  rcases runCommand_next h with ⟨r, rfl⟩ | rfl | ⟨p, -, rfl⟩ | ⟨wp, rfl⟩ <;> rfl

theorem writesOnlyWritable_of_disks {s t : State} (h : t.disks = s.disks) : WritesOnlyWritable s t :=
  fun d => .inl (congrArg (findDisk · d) h)

/-- Write data is committed only on the disk its drive names, and only when that is unlocked (42 R183). -/
theorem writesOnlyWritable_writeData {wp : WritePending} {data : List Byte} {now : Time} {s t : State}
    (h : writeData wp data now s = .next t) : WritesOnlyWritable s t := by
  rcases writeData_next h with ⟨r, rfl⟩ | ⟨d, img, hd, hi, hc, rfl⟩
  · exact writesOnlyWritable_of_disks rfl
  · obtain ⟨-, -, hslot⟩ := resolveDrive_ok.1 hd
    obtain ⟨hlock, -⟩ := writeCheck_none.1 hc
    intro e
    rcases eq_or_ne e d with rfl | he
    · exact .inr ⟨⟨_, hslot⟩, img, hi, hlock⟩
    · exact .inl (State.image_putSector_other (s.setWp none) he img wp.sec.toNat data)

theorem writesOnlyWritable_execDispatch {p : List Byte} {now : Time} {s t : State}
    (h : execDispatch p now s = .next t) : WritesOnlyWritable s t := by
  rcases execDispatch_next h with ⟨-, h⟩ | ⟨wp, -, h⟩
  · exact writesOnlyWritable_of_disks (runCommand_disks h)
  · exact writesOnlyWritable_writeData h

/-- A received byte writes an image only by the dispatcher, at a frame end (41 R140 to R146). -/
theorem writesOnlyWritable_execRxByte {b : Byte} {now : Time} {s t : State} (h : execRxByte b now s = .next t) :
    WritesOnlyWritable s t := by
  rcases execRxByte_next h with ⟨-, rfl⟩ | ⟨ph, n, m, buf, k, rfl | ⟨-, -, payload, h | rfl⟩⟩
  · exact writesOnlyWritable_of_disks rfl
  · exact writesOnlyWritable_of_disks rfl
  · have hkept := writesOnlyWritable_execDispatch h
    exact hkept
  · exact writesOnlyWritable_of_disks rfl

/-- Settles O19: an image that a byte changes is mounted and unlocked. -/
theorem bytesChangeOnlyMountedUnlockedImages : Obligations.BytesChangeOnlyMountedUnlockedImages := by
  intro s t b now d h
  rcases writesOnlyWritable_execRxByte h d with hsame | ⟨⟨k, hk⟩, img, hi, hlock⟩
  · exact ⟨fun _ => hsame, fun _ _ _ => hsame⟩
  · refine ⟨fun hnone => absurd hk (hnone k), fun img' hi' hlock' => ?_⟩
    rw [hi] at hi'
    cases hi'
    simp [hlock] at hlock'

end Sys2Proof.Machine
end

section
/-! The checksum unit: the closed form of the end-around-carry sum (40 R133, R134; decision D1). -/

namespace Sys2Proof

/-- The closed form of 40 R133: the sum of the bytes modulo 255, with 255 for 0 unless every byte is 0. -/
def endAround (total : Nat) : Nat := if total = 0 then 0 else (total - 1) % 255 + 1

theorem endAround_le (total : Nat) : endAround total ≤ 255 := by
  unfold endAround
  split <;> omega

/-- Folding the carry back adds one byte to the sum in its closed form (40 R130, R133). -/
theorem endAround_add {total byte : Nat} (h : byte < 256) :
    (endAround total + byte) % 256 + (endAround total + byte) / 256 = endAround (total + byte) := by
  unfold endAround
  split <;> split <;> omega

/-- One pass of the loop, the 16-bit add and the two divisions as numbers (40 R130). -/
theorem checksumStep_toNat {acc : BitVec 16} (h : acc.toNat ≤ 255) (b : Byte) :
    (checksumStep acc b).toNat = (acc.toNat + b.toNat) % 256 + (acc.toNat + b.toNat) / 256 := by
  have hb := b.isLt
  have hsum : (acc + b.setWidth 16).toNat = acc.toNat + b.toNat := by
    rw [BitVec.toNat_add, BitVec.toNat_setWidth]; omega
  have h256 : (256 : BitVec 16).toNat = 256 := rfl
  rw [checksumStep, BitVec.toNat_add, BitVec.toNat_umod, BitVec.toNat_udiv, hsum, h256]
  omega

/-- The loop keeps the accumulator in closed form, from any sum of the bytes before (40 R133). -/
theorem foldl_checksumStep_toNat (bytes : List Byte) {acc : BitVec 16} {total : Nat} (h : acc.toNat = endAround total) :
    (bytes.foldl checksumStep acc).toNat = endAround (total + (bytes.map BitVec.toNat).sum) := by
  induction bytes generalizing acc total with
  | nil => exact h
  | cons b bytes ih =>
    have hstep : (checksumStep acc b).toNat = endAround (total + b.toNat) := by
      rw [checksumStep_toNat (h ▸ endAround_le total), h, endAround_add b.isLt]
    rw [List.foldl_cons, ih hstep, List.map_cons, List.sum_cons, Nat.add_assoc]

theorem checksumAcc_toNat (bytes : List Byte) :
    (checksumAcc bytes).toNat = endAround (bytes.map BitVec.toNat).sum := by
  have hseed : Config.ckSeed.toNat = endAround 0 := rfl
  rw [checksumAcc, foldl_checksumStep_toNat bytes hseed, Nat.zero_add]

theorem checksum_toNat (bytes : List Byte) : (checksum bytes).toNat = endAround (bytes.map BitVec.toNat).sum := by
  have hle := endAround_le (bytes.map BitVec.toNat).sum
  rw [checksum, BitVec.toNat_setWidth, checksumAcc_toNat]
  omega

/-- The high byte of the accumulator is zero at the end (40 R132). -/
theorem checksumAcc_eq_setWidth (bytes : List Byte) : checksumAcc bytes = (checksum bytes).setWidth 16 := by
  have hle := endAround_le (bytes.map BitVec.toNat).sum
  apply BitVec.eq_of_toNat_eq
  rw [BitVec.toNat_setWidth, checksum_toNat, checksumAcc_toNat]
  omega

/-- The accumulator does not depend on the order of the bytes, for their sum does not (40 R134; 90 C1). -/
theorem checksumAcc_perm {bytes other : List Byte} (h : bytes.Perm other) : checksumAcc other = checksumAcc bytes := by
  apply BitVec.eq_of_toNat_eq
  rw [checksumAcc_toNat, checksumAcc_toNat, (h.map BitVec.toNat).sum_eq]

namespace Machine

theorem exec_checksum (bytes : List Byte) (s : State) :
    exec (.checksum bytes) s = .next { s with ckAcc := checksumAcc bytes, ret := .byte (checksum bytes) } := rfl

/-- Settles O9: the accumulator is the closed form of the sum of the bytes, and the answer is its low byte. -/
theorem checksumHasClosedForm : Obligations.ChecksumHasClosedForm := by
  refine fun bytes s => ⟨checksum bytes, ?_, checksum_toNat bytes, fun other hperm => ?_⟩
  · rw [exec_checksum, checksumAcc_eq_setWidth]
  · have hacc := checksumAcc_perm hperm
    rw [exec_checksum, exec_checksum, checksum, hacc, ← checksum]

end Machine
end Sys2Proof
end

section
/-! The remaining rules: the command code map, one step, reset, the outbound rows, and the answers the spec leaves
free. -/

namespace Sys2Proof

/-- Settles O2: each word is read by evaluating the decoder. -/
theorem specWordsDecode : Obligations.SpecWordsDecode :=
  ⟨rfl, rfl, rfl, rfl, rfl, rfl, rfl, rfl, rfl, rfl, rfl, rfl, rfl⟩

namespace Machine

/-- Settles O4: the code map has one rule per code, and both payloads too short for their command are one case. -/
theorem commandCodeMap : Obligations.CommandCodeMap := by
  simp only [Obligations.CommandCodeMap, ← le16_eq]
  refine ⟨rfl, fun cmd args hS hR hW hP => decodeCommand_other (isCommandCode_false.2 ⟨hS, hR, hW, hP⟩) args,
    decodeCommand_S, decodeCommand_R, fun sel lo hi more => ⟨decodeCommand_W sel lo hi more,
      decodeCommand_P sel lo hi more⟩, fun args => ?_, fun _ _ => rfl⟩
  exact ⟨fun h => decodeCommand_short rfl (Nat.succ_lt_succ h), fun h => decodeCommand_short rfl (Nat.succ_lt_succ h),
    fun h => ⟨decodeCommand_short rfl (Nat.succ_lt_succ h), decodeCommand_short rfl (Nat.succ_lt_succ h)⟩⟩

section Step

variable {s : State} {i : Instr} {later : List Input}

/-- What a step does with a fetched instruction (log 26). -/
theorem step_of_run {u : State} (h : fetch s = .run i u) :
    step s = if i.wellFormed = true then exec i u else .refused .illFormed := by
  rw [step, h]

theorem fetch_call (h : s.inputs = .call i :: later) : fetch s = .run i { s with inputs := later } := by
  rw [fetch, h]

theorem fetch_encoded {f : Format} {now : Time} {bs rest : List Byte} (h : s.inputs = .encoded f now bs :: later)
    (hd : decode f now bs = .ok (i, rest)) :
    fetch s = .run i { s with inputs := if rest = [] then later else .encoded f now rest :: later } := by
  simp only [fetch, h, hd, afterItem]

theorem step_undecodable {f : Format} {now : Time} {bs : List Byte} {e : DecodeError}
    (h : s.inputs = .encoded f now bs :: later) (hd : decode f now bs = .error e) :
    step s = .refused (.undecodable e) := by
  simp only [step, fetch, h, hd]

theorem step_idle (h : s.inputs = []) : step s = .next s := by
  simp only [step, fetch, h]

end Step

/-- Settles O5: one rule per kind of pending event. -/
theorem stepRunsTheNextInstruction : Obligations.StepRunsTheNextInstruction := by
  refine fun s => ⟨fun i later h => ?_,
    fun f now bs later h => ⟨fun i rest hd hw => ?_, fun e => step_undecodable h⟩, step_idle⟩
  · rw [step_of_run (fetch_call h)]
    exact ⟨fun hw => if_pos hw, fun hw => if_neg (by simp [hw])⟩
  · rw [step_of_run (fetch_encoded h hd), if_pos hw]

theorem Slots.get_empty (k : Nat) : Slots.empty.get k = none := by
  unfold Slots.get
  split <;> rfl

/-- Settles O6: the values of `State.reset`, read field by field. -/
theorem resetValues : Obligations.ResetValues :=
  ⟨rfl, rfl, rfl, Slots.get_empty, rfl, rfl, rfl, fun _ => rfl, rfl, rfl, rfl⟩

/-- Settles O7: there are no images, nothing is mounted, no frame is begun, and nothing is scheduled. -/
theorem resetMeetsInvariant : Obligations.ResetMeetsInvariant :=
  have hempty (k : Nat) : State.reset.dpSlot.get k = none := Slots.get_empty k
  State.reset.inv_iff.2 {
    wf := nofun
    sorted := .nil
    below := nofun
    live := fun k _ hk => nomatch (hempty k).symm.trans hk
    once := fun j _ _ hj => nomatch (hempty j).symm.trans hj
    counted := nofun
    complete := nofun }

/-- Settles O32: a code's row is `SendCode`, and a data reply's row is `SendPayload` of its variant. -/
theorem replyRowsAreSent : Obligations.ReplyRowsAreSent := by
  refine fun s => ⟨rfl, rfl, rfl, rfl, fun _ => rfl, fun p hp => ⟨checksumAcc p, _, rfl, fun hv => ?_, fun hv => ?_⟩⟩
  · rw [hv]; exact sendPayloadAs_selected hv hp
  · rw [hv]; exact sendPayloadAs_selected hv hp

section Free

variable {s : State} {d : DiskId} {img : Image} (hi : s.image d = some img)
include hi

/-- `Len` of sector 0 (20 R61; log 17). -/
theorem exec_len_zero :
    exec (.len d 0) s = .next { s with ret := .number (Config.lenOfSectorZero s.draws), draws := s.draws + 1 } :=
  (State.withImage_some hi _).trans (if_pos rfl)

/-- `MemRead` past the end of a sector (20 R62; log 17). -/
theorem exec_memRead_past {n off len : Nat} (hn : img.has n = true) (h : img.len n < off + len) :
    exec (.memRead d n off len) s =
      .next { s with ret := .maybeBytes (Config.readPastSector s.draws), draws := s.draws + 1 } :=
  (State.withImage_some hi _).trans ((if_neg (by simp [hn])).trans (if_neg (Nat.not_le.2 h)))

end Free

/-- Settles O41: each answers its free value and counts it as drawn. -/
theorem unstatedAnswersAreFree : Obligations.UnstatedAnswersAreFree := fun _ _ img n _ _ hi =>
  ⟨⟨_, exec_len_zero hi⟩, fun h₁ h₂ h => ⟨_, exec_memRead_past hi ((img.has_iff n).2 ⟨h₁, h₂⟩) h⟩⟩

end Machine
end Sys2Proof
end
